-- ==== Sys2Proof/Word.lean ====
section
/-! DEFINITION. The widths of R5 (here, because the words are made of them; the other parameters are in `Config.lean`), the
words of the SPI9 block and the small sets of names its spec uses: pins (R102), directions (R105),
pulse channels (R302), fault causes (R601). -/

namespace Sys2Proof

/-- `PIX_BITS`, the width of a colour (R5). -/
abbrev Config.pixBits : Nat := 12

/-- `FRAME_BITS`, the number of bits of a serial frame (R5). -/
abbrev Config.frameBits : Nat := 9

/-- `TICK_WIDTH`, the width of a tick count (R5, R503). -/
abbrev Config.tickWidth : Nat := 32

/-- `N_PULSE_IN`, the number of pulse inputs (R5). -/
abbrev Config.nPulseIn : Nat := 2

/-- A byte of the wire or of a command field. -/
abbrev Byte := BitVec 8

/-- A command word: always 64 bits (R300). -/
abbrev Command := BitVec 64

/-- A serial frame as a value of `FRAME_BITS` bits, `f = dc : b` (R320). -/
abbrev Frame := BitVec Config.frameBits

/-- A host-visible register, or the value CLASSIFY takes: 32 bits (R107, R302). -/
abbrev Word32 := BitVec 32

/-- A tick count of READPULSE, `TICK_WIDTH` bits (R103, R503). -/
abbrev TickCount := BitVec Config.tickWidth

/-- A packed colour of `PIX_BITS` bits (R302). -/
abbrev Color := BitVec Config.pixBits

/-- A pin index as a command carries it: 3 bits, 0 to 7 (R102, R200). -/
abbrev PinIndex := BitVec 3

/-- The four output pins, indices 0 to 3 (R102): they have a direction and a latch. -/
inductive OutPin where
  | sck
  | sda
  | cs
  | rst
deriving DecidableEq, Repr, Inhabited

/-- The two pulse inputs, indices 4 and 5 (R102), as the field `CH` names them (R302: 0 = `PIN0`, 1 = `PIN1`). -/
inductive Channel where
  | pin0
  | pin1
deriving DecidableEq, Repr, Inhabited

/-- The pulse inputs in the order of their indices, `N_PULSE_IN` of them (R5, R102). -/
def Channel.list : List Channel := [Channel.pin0, .pin1].take Config.nPulseIn

/-- A pin that exists, indices 0 to 5 (R102). -/
inductive Pin where
  | out (p : OutPin)
  | pulse (ch : Channel)
deriving DecidableEq, Repr, Inhabited

/-- A pin direction: `inp` is IN (0), `out` is OUT (1) (R105). -/
inductive PinMode where
  | inp
  | out
deriving DecidableEq, Repr, Inhabited

/-- The four fault causes (R601). -/
inductive FaultCause where
  | badop
  | rsvd
  | badpin
  | range
deriving DecidableEq, Repr, Inhabited

/-- A clock edge of the reference receiver (R428). -/
inductive Edge where
  | falling
  | rising
deriving DecidableEq, Repr, Inhabited

/-- One thing for each of the four output pins: the latches (R104), the directions (R105), the driven levels (R106). -/
structure PerPin (α : Type) where
  sck : α
  sda : α
  cs : α
  rst : α
deriving DecidableEq, Repr, Inhabited

namespace PerPin

/-- The entry of pin `p`. -/
def get {α : Type} (v : PerPin α) : OutPin → α
  | .sck => v.sck
  | .sda => v.sda
  | .cs => v.cs
  | .rst => v.rst

/-- `v` with the entry of pin `p` replaced by `a` and the others kept (R207: a write changes only its own bit). -/
def set {α : Type} (v : PerPin α) (p : OutPin) (a : α) : PerPin α :=
  match p with
  | .sck => { v with sck := a }
  | .sda => { v with sda := a }
  | .cs => { v with cs := a }
  | .rst => { v with rst := a }

/-- The same thing for all four pins. -/
def all {α : Type} (a : α) : PerPin α := ⟨a, a, a, a⟩

end PerPin

end Sys2Proof
end

