-- ==== Sys2Proof/Config.lean ====
section
/-! DEFINITION. The parameters of R5, but for the four widths and counts that `Word.lean` needs, and the free values. A parameter with a value is a named constant of SPI9 rev 1
(its literal is the spec's, unaudited: log entry 19). A parameter the spec marks OPEN, and a value the spec leaves to the
environment, is an opaque constant with no body: nothing can prove what it is (log entries 1, 2, 3). -/

namespace Sys2Proof.Config

/-- `SCREEN_W` (R5). -/
def screenW : Nat := 131

/-- `SCREEN_H` (R5). -/
def screenH : Nat := 131

/-- `BLACK` (R5). -/
def black : Color := 0x000#12

/-- `TH_LO` (R5, R511). -/
def thLo : Word32 := 7920#32

/-- `TH_HI` (R5, R511). -/
def thHi : Word32 := 9920#32

/-- The constraint R5 asks of the thresholds: `TH_LO <= TH_HI`. -/
def thresholdsOrdered : Bool := decide (thLo ≤ thHi)

/-- `T_RST_LO`, the lower bound on the low time of the display reset (R5, R455). -/
def tRstLo : Nat := 200

/-- `T_RST_HI`, the lower bound on the recovery time of the display reset (R5, R455). -/
def tRstHi : Nat := 200

/-- `RX_EDGE`, the edge the reference receiver samples on (R5, R428). -/
def rxEdge : Edge := .falling

/-- `OPC_DISCTL` (R452). -/
def opcDisctl : Byte := 0xCA#8
/-- `OPC_COMSCN` (R452). -/
def opcComscn : Byte := 0xBB#8
/-- `OPC_OSCON` (R452). -/
def opcOscon : Byte := 0xD1#8
/-- `OPC_SLPOUT` (R452). -/
def opcSlpout : Byte := 0x94#8
/-- `OPC_VOLCTR` (R452). -/
def opcVolctr : Byte := 0x81#8
/-- `OPC_PWRCTR` (R452). -/
def opcPwrctr : Byte := 0x20#8
/-- `OPC_DISINV` (R452). -/
def opcDisinv : Byte := 0xA7#8
/-- `OPC_DATCTL` (R452). -/
def opcDatctl : Byte := 0xBC#8
/-- `OPC_NOP` (R452). -/
def opcNop : Byte := 0x25#8
/-- `OPC_DISON` (R452). -/
def opcDison : Byte := 0xAF#8
/-- `OPC_PASET` (R452). -/
def opcPaset : Byte := 0x75#8
/-- `OPC_CASET` (R452). -/
def opcCaset : Byte := 0x15#8
/-- `OPC_RAMWR` (R452). -/
def opcRamwr : Byte := 0x5C#8

/-- `INIT_PAYLOAD(op)`: the fixed list of payload bytes of an init op-code, OPEN (R5, R453; log entry 3). -/
opaque initPayload : Byte → List Byte

/-- `T_SETTLE`: the settle delay in time units, OPEN (R5, R455; log entry 3). -/
opaque tSettle : Nat

/-- The latch levels of the `n`-th reset: "the model draws each of the four bits freely" (R104, R700; log entry 1). -/
opaque resetLatch : Nat → PerPin Bool

/-- The `n`-th environment draw, of the level of a pin that the block does not drive (R106, R501; log entry 2). -/
opaque envDraw : Nat → Pin → Bool

end Sys2Proof.Config
end

