-- ==== Sys2Proof/Syntax.lean ====
section
/-! DEFINITION. The instructions: one constructor for each row of `spec/opcode_table.json`.
Operand values that a command faults on (R305) are terms too; `WellFormed.lean` says which those are. -/

namespace Sys2Proof

/-- A row of the opcode table with its operands. -/
inductive Instr where
  /-- TXFRAME (R422): send the frame `dc : payload`; `dc` is true for data (R302). -/
  | txframe (dc : Bool) (payload : Byte)
  /-- INITDISP (R454). -/
  | initdisp
  /-- FILLRECT (R460). -/
  | fillrect (x y w h : Byte) (color : Color)
  /-- READPULSE (R505). -/
  | readpulse (ch : Channel)
  /-- CLASSIFY (R510). -/
  | classify (value : Word32)
  /-- PINSET (R401). -/
  | pinset (pin : PinIndex)
  /-- PINCLR (R402). -/
  | pinclr (pin : PinIndex)
  /-- PINTEST (R403). -/
  | pintest (pin : PinIndex)
  /-- PINDIR (R404). -/
  | pindir (pin : PinIndex) (mode : PinMode)
  /-- The pseudo-instruction SENDCMD (R307, R423). -/
  | sendcmd (b : Byte)
  /-- The pseudo-instruction SENDDATA (R307, R423). -/
  | senddata (b : Byte)
  /-- The pseudo-instruction CLEARSCR (R307, R467). -/
  | clearscr
  /-- The wire command frame of display-control, `C(0xCA)` (R452). -/
  | wireDisctl
  /-- The wire command frame of common-scan-direction, `C(0xBB)` (R452). -/
  | wireComscn
  /-- The wire command frame of oscillator-on, `C(0xD1)` (R452). -/
  | wireOscon
  /-- The wire command frame of sleep-out, `C(0x94)` (R452). -/
  | wireSlpout
  /-- The wire command frame of contrast-volume, `C(0x81)` (R452). -/
  | wireVolctr
  /-- The wire command frame of power-control, `C(0x20)` (R452). -/
  | wirePwrctr
  /-- The wire command frame of display-inversion, `C(0xA7)` (R452). -/
  | wireDisinv
  /-- The wire command frame of data-control, `C(0xBC)` (R452). -/
  | wireDatctl
  /-- The wire command frame of no-op, `C(0x25)` (R452). -/
  | wireNop
  /-- The wire command frame of display-on, `C(0xAF)` (R452). -/
  | wireDison
  /-- The wire command frame of page-address-set, `C(0x75)` (R452). -/
  | wirePaset
  /-- The wire command frame of column-address-set, `C(0x15)` (R452). -/
  | wireCaset
  /-- The wire command frame of memory-write, `C(0x5C)` (R452). -/
  | wireRamwr
  /-- A wire data frame `D(b)` (R321). -/
  | wireData (b : Byte)
deriving DecidableEq, Repr

end Sys2Proof
end

