-- ==== Sys2Proof/WellFormed.lean ====
section
/-! DEFINITION. Which instructions have legal operand values (R305). The other operand values are well placed bits that
a command faults on: their meaning is the fault of R601. -/

namespace Sys2Proof

/-- A pin index that names an output pin, 0 to 3 (R102). -/
def PinIndex.isOutput (p : PinIndex) : Bool := decide (p.toNat ≤ 3)

/-- A pin index that names a pin, 0 to 5 (R102). -/
def PinIndex.isPin (p : PinIndex) : Bool := decide (p.toNat < 4 + Config.nPulseIn)

/-- A rectangle coordinate, 0 to 130 in both directions (R305). -/
def coordOk (limit : Nat) (c : Byte) : Bool := decide (c.toNat < limit)

/-- A rectangle extent, 1 to 131 in both directions (R305). -/
def extentOk (limit : Nat) (e : Byte) : Bool := decide (1 ≤ e.toNat ∧ e.toNat ≤ limit)

/-- The operands of a FILLRECT are in range (R305). -/
def rectOk (x y w h : Byte) : Bool :=
  coordOk Config.screenW x && coordOk Config.screenH y && extentOk Config.screenW w && extentOk Config.screenH h

/-- The operand values are legal (R305): an accepted word of this instruction raises no fault. -/
def Instr.wf : Instr → Bool
  | .txframe _ _ => true
  | .initdisp => true
  | .fillrect x y w h _ => rectOk x y w h
  | .readpulse _ => true
  | .classify _ => true
  | .pinset p => PinIndex.isOutput p
  | .pinclr p => PinIndex.isOutput p
  | .pintest p => PinIndex.isPin p
  | .pindir p _ => PinIndex.isOutput p
  | .sendcmd _ => true
  | .senddata _ => true
  | .clearscr => true
  | .wireDisctl => true
  | .wireComscn => true
  | .wireOscon => true
  | .wireSlpout => true
  | .wireVolctr => true
  | .wirePwrctr => true
  | .wireDisinv => true
  | .wireDatctl => true
  | .wireNop => true
  | .wireDison => true
  | .wirePaset => true
  | .wireCaset => true
  | .wireRamwr => true
  | .wireData _ => true

end Sys2Proof
end

