-- ==== Sys2Proof/Decode.lean ====
section
/-! DEFINITION. The two encodings (30_encoding.md): 64-bit command words (R300 to R304, R310) and 9-bit wire frames
(R320 to R322). Decoding is total: a command word is an instruction or is rejected as BADOP or RSVD; a frame is an
instruction or is rejected as a command byte the opcode table does not name. The encoder is written from the same tables.

A decoded command may still have an operand value that R305 makes illegal: its meaning raises that fault (log entry 6). -/

namespace Sys2Proof

/-! ### Fields -/

/-- The field of `len` bits whose lowest bit is `lo` (R7, R302: unsigned, as it stands). -/
def field {n : Nat} (w : BitVec n) (lo len : Nat) : BitVec len := w.extractLsb' lo len

/-- A field value put where its lowest bit is `lo`, every other bit of the word 0 (R301: reserved bits are 0). -/
def place {len : Nat} (lo : Nat) (v : BitVec len) : Command := v.setWidth 64 <<< lo

/-- `OP`, bits 7..0 (R300). -/
def opOf (w : Command) : Byte := field w 0 8

/-- `CH` as a field value: 0 is `PIN0`, 1 is `PIN1` (R302). -/
def channelOf (b : Bool) : Channel := if b then .pin1 else .pin0

/-- The field value of a channel (R302). -/
def channelBit : Channel → Bool
  | .pin0 => false
  | .pin1 => true

/-- `MODE` as a field value: 0 is IN, 1 is OUT (R302). -/
def modeOf (b : Bool) : PinMode := if b then .out else .inp

/-- The field value of a direction (R302, R105). -/
def modeBit : PinMode → Bool
  | .inp => false
  | .out => true

/-! ### Command words -/

/-- The mnemonics of R301, by their `OP`. -/
inductive Op where
  | txframe
  | initdisp
  | fillrect
  | readpulse
  | classify
  | pinset
  | pinclr
  | pintest
  | pindir
deriving DecidableEq, Repr

/-- The opcode map (R303): every other value of `OP` is illegal. -/
def Op.ofByte (b : Byte) : Option Op :=
  match b with
  | 0x01#8 => some .txframe
  | 0x02#8 => some .initdisp
  | 0x03#8 => some .fillrect
  | 0x04#8 => some .readpulse
  | 0x05#8 => some .classify
  | 0x08#8 => some .pinset
  | 0x09#8 => some .pinclr
  | 0x0A#8 => some .pintest
  | 0x0B#8 => some .pindir
  | _ => none

/-- The `OP` value of a command (R301). -/
def Op.code : Op → Byte
  | .txframe => 0x01#8
  | .initdisp => 0x02#8
  | .fillrect => 0x03#8
  | .readpulse => 0x04#8
  | .classify => 0x05#8
  | .pinset => 0x08#8
  | .pinclr => 0x09#8
  | .pintest => 0x0A#8
  | .pindir => 0x0B#8

/-- `RSVD(op)`, the reserved-bit mask (R310). -/
def Op.rsvd : Op → Command
  | .txframe => 0xFFFFFFFFFFFE0000#64
  | .initdisp => 0xFFFFFFFFFFFFFF00#64
  | .fillrect => 0xFFF0000000000000#64
  | .readpulse => 0xFFFFFFFFFFFFFE00#64
  | .classify => 0xFFFFFF0000000000#64
  | .pinset => 0xFFFFFFFFFFFFF800#64
  | .pinclr => 0xFFFFFFFFFFFFF800#64
  | .pintest => 0xFFFFFFFFFFFFF800#64
  | .pindir => 0xFFFFFFFFFFFEF800#64

/-- `PIN`, bits 10..8 of a pin command (R301). -/
def pinField (w : Command) : PinIndex := field w 8 3

/-- The instruction of a command word, its fields read where R301 puts them. -/
def Op.read (w : Command) : Op → Instr
  | .txframe => .txframe (w.getLsbD 16) (field w 8 8)
  | .initdisp => .initdisp
  | .fillrect => .fillrect (field w 8 8) (field w 16 8) (field w 24 8) (field w 32 8) (field w 40 Config.pixBits)
  | .readpulse => .readpulse (channelOf (w.getLsbD 8))
  | .classify => .classify (field w 8 32)
  | .pinset => .pinset (pinField w)
  | .pinclr => .pinclr (pinField w)
  | .pintest => .pintest (pinField w)
  | .pindir => .pindir (pinField w) (modeOf (w.getLsbD 16))

/-- What a command word decodes to: an instruction, or one of the two rejections of the first checks of R310. -/
inductive Decoded where
  | instr (i : Instr)
  | badop
  | rsvd
deriving DecidableEq, Repr

/-- The first two checks of `accept` (R310, R603), then the fields. -/
def decodeCommand (w : Command) : Decoded :=
  match Op.ofByte (opOf w) with
  | none => .badop
  | some op => if w &&& op.rsvd = 0#64 then .instr (op.read w) else .rsvd

/-! ### Wire frames -/

/-- The 9-bit value `dc : b` (R320). -/
def frameWord (dc : Bool) (b : Byte) : Frame := BitVec.ofBool dc ++ b

/-- The op-code table (R452): the wire instruction of each command byte. -/
def wireTable : List (Byte × Instr) :=
  [(Config.opcDisctl, .wireDisctl),
   (Config.opcComscn, .wireComscn),
   (Config.opcOscon, .wireOscon),
   (Config.opcSlpout, .wireSlpout),
   (Config.opcVolctr, .wireVolctr),
   (Config.opcPwrctr, .wirePwrctr),
   (Config.opcDisinv, .wireDisinv),
   (Config.opcDatctl, .wireDatctl),
   (Config.opcNop, .wireNop),
   (Config.opcDison, .wireDison),
   (Config.opcPaset, .wirePaset),
   (Config.opcCaset, .wireCaset),
   (Config.opcRamwr, .wireRamwr)]

/-- The wire instruction of a command byte (R452). -/
def wireOpcode (b : Byte) : Option Instr := (wireTable.find? fun e => e.1 == b).map fun e => e.2

/-- The instruction a 9-bit frame stands for (R320 to R322): the D/C bit tells a command from data. A command frame
whose byte is no op-code of R452 is none: the table has no row for it. -/
def decodeFrame (f : Frame) : Option Instr :=
  if f.getLsbD 8 then some (.wireData (field f 0 8)) else wireOpcode (field f 0 8)

/-! ### One decoder over both encodings -/

/-- An encoded instruction: a command word, or a frame of the wire ("Two encodings exist", 30_encoding.md). -/
inductive Code where
  | command (w : Command)
  | frame (f : Frame)
deriving DecidableEq, Repr

/-- Why a code is no instruction. -/
inductive Rejection where
  /-- `OP` is none of the nine (R303). -/
  | badop
  /-- A reserved bit is 1 (R304). -/
  | rsvd
  /-- A command frame whose byte is no op-code of R452. -/
  | unnamedFrame
deriving DecidableEq, Repr

/-- The outcome of decoding either kind of code. -/
inductive Reading where
  | instr (i : Instr)
  | rejected (r : Rejection)
deriving DecidableEq, Repr

/-- Decode a command word or a wire frame; total. -/
def decode : Code → Reading
  | .command w =>
    match decodeCommand w with
    | .instr i => .instr i
    | .badop => .rejected .badop
    | .rsvd => .rejected .rsvd
  | .frame f =>
    match decodeFrame f with
    | some i => .instr i
    | none => .rejected .unnamedFrame

/-! ### The encoder -/

/-- The word of a TXFRAME (R301). -/
def txframeWord (dc : Bool) (payload : Byte) : Command :=
  place 16 (BitVec.ofBool dc) ||| place 8 payload ||| place 0 (Op.code .txframe)

/-- The word of a FILLRECT (R301). -/
def fillrectWord (x y w h : Byte) (color : Color) : Command :=
  place 40 color ||| place 32 h ||| place 24 w ||| place 16 y ||| place 8 x ||| place 0 (Op.code .fillrect)

/-- The word of a pin command with no other field (R301). -/
def pinWord (op : Op) (pin : PinIndex) : Command := place 8 pin ||| place 0 op.code

/-- The command word by which the block is asked for an instruction: its own (R301), that of its expansion for a
pseudo-instruction (R307), and for a wire frame that of the TXFRAME that sends it (R422, R423; log entry 8). -/
def commandWord : Instr → Command
  | .txframe dc payload => txframeWord dc payload
  | .initdisp => place 0 (Op.code .initdisp)
  | .fillrect x y w h color => fillrectWord x y w h color
  | .readpulse ch => place 8 (BitVec.ofBool (channelBit ch)) ||| place 0 (Op.code .readpulse)
  | .classify value => place 8 value ||| place 0 (Op.code .classify)
  | .pinset pin => pinWord .pinset pin
  | .pinclr pin => pinWord .pinclr pin
  | .pintest pin => pinWord .pintest pin
  | .pindir pin mode => place 16 (BitVec.ofBool (modeBit mode)) ||| place 8 pin ||| place 0 (Op.code .pindir)
  | .sendcmd b => txframeWord false b
  | .senddata b => txframeWord true b
  | .clearscr => fillrectWord 0#8 0#8 (BitVec.ofNat 8 Config.screenW) (BitVec.ofNat 8 Config.screenH) Config.black
  | .wireDisctl => txframeWord false Config.opcDisctl
  | .wireComscn => txframeWord false Config.opcComscn
  | .wireOscon => txframeWord false Config.opcOscon
  | .wireSlpout => txframeWord false Config.opcSlpout
  | .wireVolctr => txframeWord false Config.opcVolctr
  | .wirePwrctr => txframeWord false Config.opcPwrctr
  | .wireDisinv => txframeWord false Config.opcDisinv
  | .wireDatctl => txframeWord false Config.opcDatctl
  | .wireNop => txframeWord false Config.opcNop
  | .wireDison => txframeWord false Config.opcDison
  | .wirePaset => txframeWord false Config.opcPaset
  | .wireCaset => txframeWord false Config.opcCaset
  | .wireRamwr => txframeWord false Config.opcRamwr
  | .wireData b => txframeWord true b

/-- The code of an instruction: its command word (R301, R307), or its frame for a wire row (R321, R452). -/
def encode : Instr → Code
  | .wireDisctl => .frame (frameWord false Config.opcDisctl)
  | .wireComscn => .frame (frameWord false Config.opcComscn)
  | .wireOscon => .frame (frameWord false Config.opcOscon)
  | .wireSlpout => .frame (frameWord false Config.opcSlpout)
  | .wireVolctr => .frame (frameWord false Config.opcVolctr)
  | .wirePwrctr => .frame (frameWord false Config.opcPwrctr)
  | .wireDisinv => .frame (frameWord false Config.opcDisinv)
  | .wireDatctl => .frame (frameWord false Config.opcDatctl)
  | .wireNop => .frame (frameWord false Config.opcNop)
  | .wireDison => .frame (frameWord false Config.opcDison)
  | .wirePaset => .frame (frameWord false Config.opcPaset)
  | .wireCaset => .frame (frameWord false Config.opcCaset)
  | .wireRamwr => .frame (frameWord false Config.opcRamwr)
  | .wireData b => .frame (frameWord true b)
  | .txframe dc payload => .command (commandWord (.txframe dc payload))
  | .initdisp => .command (commandWord .initdisp)
  | .fillrect x y w h color => .command (commandWord (.fillrect x y w h color))
  | .readpulse ch => .command (commandWord (.readpulse ch))
  | .classify value => .command (commandWord (.classify value))
  | .pinset pin => .command (commandWord (.pinset pin))
  | .pinclr pin => .command (commandWord (.pinclr pin))
  | .pintest pin => .command (commandWord (.pintest pin))
  | .pindir pin mode => .command (commandWord (.pindir pin mode))
  | .sendcmd b => .command (commandWord (.sendcmd b))
  | .senddata b => .command (commandWord (.senddata b))
  | .clearscr => .command (commandWord .clearscr)

/-- What an instruction's code decodes to: a pseudo-instruction's expansion (R307: "a decoder never sees it"; log entry 7),
every other instruction itself. -/
def Instr.decoded : Instr → Instr
  | .sendcmd b => .txframe false b
  | .senddata b => .txframe true b
  | .clearscr => .fillrect 0#8 0#8 (BitVec.ofNat 8 Config.screenW) (BitVec.ofNat 8 Config.screenH) Config.black
  | .txframe dc payload => .txframe dc payload
  | .initdisp => .initdisp
  | .fillrect x y w h color => .fillrect x y w h color
  | .readpulse ch => .readpulse ch
  | .classify value => .classify value
  | .pinset pin => .pinset pin
  | .pinclr pin => .pinclr pin
  | .pintest pin => .pintest pin
  | .pindir pin mode => .pindir pin mode
  | .wireDisctl => .wireDisctl
  | .wireComscn => .wireComscn
  | .wireOscon => .wireOscon
  | .wireSlpout => .wireSlpout
  | .wireVolctr => .wireVolctr
  | .wirePwrctr => .wirePwrctr
  | .wireDisinv => .wireDisinv
  | .wireDatctl => .wireDatctl
  | .wireNop => .wireNop
  | .wireDison => .wireDison
  | .wirePaset => .wirePaset
  | .wireCaset => .wireCaset
  | .wireRamwr => .wireRamwr
  | .wireData b => .wireData b

/-! ### The opcode table's numbering of bits -/

/-- A number as a code: up to 16 bits are a frame of the table's wire rows (bits 8..0), more are a command word
with zeros above (log entry 16). -/
def tableCode (nbits w : Nat) : Option Code :=
  if nbits ≤ 16 then
    if w < 2 ^ Config.frameBits then some (.frame (BitVec.ofNat Config.frameBits w)) else none
  else if w < 2 ^ 64 then some (.command (BitVec.ofNat 64 w)) else none

/-- The instruction the decoder reads from bits numbered as `spec/opcode_table.json` numbers them. -/
def decodeTableWord (nbits w : Nat) : Option Instr :=
  match tableCode nbits w with
  | none => none
  | some c =>
    match decode c with
    | .instr i => some i
    | .rejected _ => none

end Sys2Proof
end

