-- ==== Sys2Proof/Machine/State.lean ====
section
/-! DEFINITION. The state of the block, as plain data: the sequencer position (R103), the pins (R104, R105), the registers
(R107 to R113), the event trace (R117, R203), the input ports (R101) and the counters of the free values. The block has no
memory (R200; log entry 12). `State.reset` is the state after reset (R118, R700). -/

namespace Sys2Proof.Machine

/-- A micro-operation of the sequencer (R103, R203). -/
inductive MicroOp where
  /-- `WR(p, v)`: write the latch of an output pin. -/
  | wr (p : OutPin) (v : Bool)
  /-- `DIRW(p, m)`: write the direction of an output pin. -/
  | dirw (p : OutPin) (m : PinMode)
  /-- `DLY(n)`: wait at least `n` time units (R455; log entry 14). -/
  | dly (n : Nat)
  /-- `TST(p)`: read the level of a pin into PINBIT. -/
  | tst (p : Pin)
  /-- `SETCLASS(c)`: write `CLASS.CODE`. -/
  | setclass (c : BitVec 2)
deriving DecidableEq, Repr

/-- The phases of the pulse counter (R502). -/
inductive Phase where
  | p1
  | p2
  | p3
  | p4
deriving DecidableEq, Repr

/-- The working counts of the pulse counter: `hc`, `lc`, `ovh`, `ovl` (R103, R502). -/
structure Counts where
  hc : TickCount
  lc : TickCount
  ovh : Bool
  ovl : Bool
deriving DecidableEq, Repr

/-- The sequencer position `SEQ` (R103). A `Run` list is never empty (R202: after the last micro-operation `SEQ` is
`Idle`), so `run` carries its head (log entry 9). -/
inductive Seq where
  | idle
  | run (op : MicroOp) (rest : List MicroOp)
  | pulse (ch : Channel) (ph : Phase) (c : Counts)
deriving DecidableEq, Repr

/-- The position of a list of micro-operations still to perform: `Idle` if there are none (R202). -/
def Seq.ofList : List MicroOp → Seq
  | [] => .idle
  | op :: rest => .run op rest

/-- The latches `LAT[0..3]` (R104) and the directions `DIR[0..3]` (R105). -/
structure Pins where
  lat : PerPin Bool
  dir : PerPin PinMode
deriving DecidableEq, Repr

/-- An event of the trace (R117, R203). -/
inductive Event where
  | wr (p : OutPin) (v : Bool)
  | dir (p : OutPin) (m : PinMode)
  | delay (n : Nat)
deriving DecidableEq, Repr

/-- The fault record: `STATUS.FAULT_VALID`, `FAULT_INFO.CAUSE` and `.SEEN`, `FAULT_CMD_LO`, `FAULT_CMD_HI` (R108 to R110). -/
structure FaultLog where
  valid : Bool
  cause : BitVec 3
  seen : BitVec 4
  cmdLo : Word32
  cmdHi : Word32
deriving DecidableEq, Repr

/-- The results of READPULSE: `HIGH_TICKS`, `LOW_TICKS`, `STATUS.TOVF_H`, `STATUS.TOVF_L` (R108, R111). -/
structure Ticks where
  high : TickCount
  low : TickCount
  tovfH : Bool
  tovfL : Bool
deriving DecidableEq, Repr

/-- The input ports (R101) and what the environment will put on them. -/
structure Inputs where
  /-- The levels of `rst_n` in the coming steps, the next step first; released (true) past the end (log entry 5). -/
  rstIn : List Bool
  /-- What the host has on `cmd`/`cmd_valid` at the coming idle steps: `none` is `cmd_valid = 0`; nothing is offered past
  the end. The head is held while the block is busy (R712; log entry 4). -/
  offers : List (Option Command)
  /-- `rd_idx`, the index on the register read port (R101, R114; log entry 17). -/
  rdIdx : BitVec 4
  /-- The levels the environment gives at the coming reads of an undriven pin or a pulse input (R106, R501); past the
  end each read is a free draw (log entry 2). -/
  env : List Bool
deriving DecidableEq, Repr

/-- The model's own counters of the free values drawn so far (log entries 1 and 2). -/
structure FreeCounters where
  /-- How many environment draws were free. -/
  draws : Nat
  /-- How many latch draws were made, one a reset. -/
  resets : Nat
deriving DecidableEq, Repr

/-- The state of the machine. -/
structure State where
  /-- `SEQ` (R103). -/
  seq : Seq
  /-- `LAT` and `DIR` (R104, R105). -/
  pins : Pins
  /-- The fault record (R108 to R110). -/
  faults : FaultLog
  /-- The READPULSE results (R108, R111). -/
  ticks : Ticks
  /-- `CLASS.CODE` (R112). -/
  classCode : BitVec 2
  /-- `PINS.PINBIT` (R113). -/
  pinbit : Bool
  /-- The event trace, the model's observation of the wire (R117; log entry 10). -/
  trace : List Event
  /-- The input ports (R101). -/
  inputs : Inputs
  /-- The counters of the free values. -/
  free : FreeCounters
deriving DecidableEq, Repr

/-- Why the machine stops with a fault. There is no reason: the block's own faults (R601) are recorded in the fault
record and the block goes on (R600, R606), so every one is a NEXT state, and its hang is a block that stays BUSY (R608).
No meaning raises anything of this type, which is safe (log entry 13). -/
inductive Fault
deriving DecidableEq, Repr

/-- Why the machine refuses an instruction. -/
inductive Refusal where
  /-- Raised by an arm of `exec` that has no meaning yet, and by nothing else; no arm is left that does. Safe: the
  machine stops where the hardware goes on. -/
  | notModelled (mnemonic : String)
deriving DecidableEq, Repr

/-- What a step does, told from the state (R202, R700). -/
inductive Activity where
  /-- `rst_n` is 0 (R700). -/
  | reset
  /-- Idle, nothing offered (R202). -/
  | nothing
  /-- Idle, a command offered (R202, R310). -/
  | accept (w : Command)
  /-- One micro-operation, `rest` still to perform after it (R203). -/
  | micro (op : MicroOp) (rest : List MicroOp)
  /-- One sample of a pulse input (R502). -/
  | sample (ch : Channel) (ph : Phase) (c : Counts)
deriving DecidableEq, Repr

/-- The block's state at its reset values (R118), with the given latches (R104: unspecified), input ports and counters. -/
def State.atReset (lat : PerPin Bool) (inputs : Inputs) (free : FreeCounters) : State where
  seq := .idle
  pins := { lat := lat, dir := PerPin.all .inp }
  faults := { valid := false, cause := 0#3, seen := 0#4, cmdLo := 0#32, cmdHi := 0#32 }
  ticks := { high := 0#Config.tickWidth, low := 0#Config.tickWidth, tovfH := false, tovfL := false }
  classCode := 0#2
  pinbit := false
  trace := []
  inputs := inputs
  free := free

/-- The machine right after reset (R118, R700): the latches are the free draw number 0 (R104; log entry 1), no command is
offered and `rst_n` is released. A program comes to run by the host's offers (log entry 4). -/
def State.reset : State :=
  State.atReset (Config.resetLatch 0) { rstIn := [], offers := [], rdIdx := 0#4, env := [] } { draws := 0, resets := 1 }

end Sys2Proof.Machine
end

