-- ==== Sys2Proof/Machine/Flags.lean ====
section
/-! DEFINITION. The flag computations: saturating counts with their overflow flag (R503), the classification code (R510),
the fault codes and SEEN bits (R601, R602), and the registers the host reads, each put together from its fields (R107). -/

namespace Sys2Proof.Machine

/-- The greatest tick count, `2^TICK_WIDTH - 1` (R503). -/
def maxTicks : TickCount := BitVec.allOnes Config.tickWidth

/-- `inc(c, ov)` (R503): count one sample, saturating at the greatest count and then setting the overflow flag. -/
def incSat (c : TickCount) (ov : Bool) : TickCount × Bool :=
  if c = maxTicks then (c, true) else (c + 1#Config.tickWidth, ov)

/-- The code of `CLASS.CODE` for a value (R510, R112): 01 BELOW, 10 ABOVE, 00 NEUTRAL; both comparisons strict. -/
def classify (value : Word32) : BitVec 2 :=
  if value < Config.thLo then 0b01#2
  else if Config.thHi < value then 0b10#2
  else 0b00#2

/-- The code of a cause (R601). -/
def causeCode : FaultCause → BitVec 3
  | .badop => 1#3
  | .rsvd => 2#3
  | .badpin => 3#3
  | .range => 4#3

/-- The SEEN bit of a cause (R109): register bit `cause + 3`, so bit `cause - 1` of the field (R602). -/
def seenBit : FaultCause → BitVec 4
  | .badop => 0b0001#4
  | .rsvd => 0b0010#4
  | .badpin => 0b0100#4
  | .range => 0b1000#4

/-- `BUSY = (SEQ != Idle)` (R115). -/
def Seq.busy : Seq → Bool
  | .idle => false
  | .run _ _ => true
  | .pulse _ _ _ => true

/-- A one-bit field of a register, at bit `lo`. -/
def flagAt (lo : Nat) (b : Bool) : Word32 := (BitVec.ofBool b).setWidth 32 <<< lo

/-- `STATUS` (R107, R108): BUSY, TOVF_H, TOVF_L, FAULT_VALID in bits 0 to 3, zero above. -/
def statusWord (busy tovfH tovfL valid : Bool) : Word32 :=
  flagAt 0 busy ||| flagAt 1 tovfH ||| flagAt 2 tovfL ||| flagAt 3 valid

/-- `FAULT_INFO` (R107, R109): CAUSE in bits 2..0, SEEN in bits 7..4, zero elsewhere. -/
def faultInfoWord (f : FaultLog) : Word32 := f.cause.setWidth 32 ||| f.seen.setWidth 32 <<< 4

/-- `CLASS` (R107, R112): CODE in bits 1..0, zero above. -/
def classWord (code : BitVec 2) : Word32 := code.setWidth 32

/-- Four bits, one for each output pin, SCK lowest (R107, R113). -/
def nibbleOf (sck sda cs rst : Bool) : BitVec 4 :=
  BitVec.ofBool rst ++ BitVec.ofBool cs ++ BitVec.ofBool sda ++ BitVec.ofBool sck

/-- `DIR[3:0]` as register bits: 0 = IN, 1 = OUT (R105). -/
def dirNibble (d : PerPin PinMode) : BitVec 4 :=
  nibbleOf (modeBit d.sck) (modeBit d.sda) (modeBit d.cs) (modeBit d.rst)

/-- `LAT[3:0]` as register bits (R104). -/
def latNibble (l : PerPin Bool) : BitVec 4 := nibbleOf l.sck l.sda l.cs l.rst

/-- `PINS` (R107, R113): DIR in bits 3..0, LAT in bits 11..8, PINBIT in bit 16, zero elsewhere. -/
def pinsWord (p : Pins) (pinbit : Bool) : Word32 :=
  (dirNibble p.dir).setWidth 32 ||| (latNibble p.lat).setWidth 32 <<< 8 ||| flagAt 16 pinbit

end Sys2Proof.Machine
end

