-- ==== Sys2Proof/Machine/Operands.lean ====
section
/-! DEFINITION. The operand forms of the commands: pin indices (R102, R305) and rectangle operands (R305). A form that
names nothing legal is `none` or false, and the meaning raises the fault R601 gives it. -/

namespace Sys2Proof.Machine

/-- The output pin of an index (R102): 0 SCK, 1 SDA, 2 CS, 3 RST. -/
def outPin (p : PinIndex) : Option OutPin :=
  match p.toNat with
  | 0 => some .sck
  | 1 => some .sda
  | 2 => some .cs
  | 3 => some .rst
  | _ => none

/-- The pin of an index (R102): the four output pins, then 4 PIN0 and 5 PIN1; 6 and 7 are reserved. -/
def anyPin (p : PinIndex) : Option Pin :=
  match outPin p with
  | some q => some (.out q)
  | none => Channel.list[p.toNat - 4]?.map Pin.pulse

/-- The index of an output pin (R102). -/
def outPinIndex : OutPin → PinIndex
  | .sck => 0#3
  | .sda => 1#3
  | .cs => 2#3
  | .rst => 3#3

/-- The index of a pin (R102). -/
def pinIndex : Pin → PinIndex
  | .out p => outPinIndex p
  | .pulse .pin0 => 4#3
  | .pulse .pin1 => 5#3

/-- The range check of a FILLRECT (R310): `X`, `Y` at most 130, `W`, `H` from 1 to 131, the bounds being those of the
131 x 131 screen (R5). -/
def rectInRange (x y w h : Byte) : Bool :=
  decide (x.toNat + 1 ≤ Config.screenW) && decide (y.toNat + 1 ≤ Config.screenH)
    && decide (1 ≤ w.toNat) && decide (w.toNat ≤ Config.screenW)
    && decide (1 ≤ h.toNat) && decide (h.toNat ≤ Config.screenH)

end Sys2Proof.Machine
end

