-- ==== Sys2Proof/Machine/Ops.lean ====
section
/-! DEFINITION. The named operations over the state that meanings and steps are made of: pin levels (R106), the register
read port (R107, R114), starting a command (R202), raising a fault (R602), performing a micro-operation (R203), and the
input ports (R101, R202, R700). Raising a fault is this hardware's taking of an exception; there is no return from one (R606). -/

namespace Sys2Proof.Machine

/-- What an instruction or a step answers. -/
abbrev Result := Host.Outcome State Fault Refusal

/-! ### Pins -/

/-- `drive(p)` (R106): what the block puts on an output pin; `none` is undriven (Z). -/
def Pins.drive (s : Pins) (p : OutPin) : Option Bool :=
  match s.dir.get p with
  | .out => some (s.lat.get p)
  | .inp => none

/-- One environment draw `ENV(p)` (R106): the next level the environment gives, or a free value (log entry 2). -/
def drawEnv (p : Pin) (s : State) : Bool × State :=
  match s.inputs.env with
  | b :: rest => (b, { s with inputs := { s.inputs with env := rest } })
  | [] => (Config.envDraw s.free.draws p, { s with free := { s.free with draws := s.free.draws + 1 } })

/-- `level(p)` (R106): the latch of a driven output pin, else a fresh environment draw. -/
def level (p : Pin) (s : State) : Bool × State :=
  match p with
  | .out q =>
    match s.pins.drive q with
    | some b => (b, s)
    | none => drawEnv p s
  | .pulse _ => drawEnv p s

/-! ### The register read port -/

/-- The value of a host-visible register (R107, R114); indices 8 to 15 read 0. Reading changes nothing. -/
def State.readReg (s : State) (idx : BitVec 4) : Word32 :=
  match idx.toNat with
  | 0 => statusWord s.seq.busy s.ticks.tovfH s.ticks.tovfL s.faults.valid
  | 1 => faultInfoWord s.faults
  | 2 => s.faults.cmdLo
  | 3 => s.faults.cmdHi
  | 4 => s.ticks.high.setWidth 32
  | 5 => s.ticks.low.setWidth 32
  | 6 => classWord s.classCode
  | 7 => pinsWord s.pins s.pinbit
  | _ => 0#32

/-- The port `rd_data` (R101, R114). -/
def State.rdData (s : State) : Word32 := s.readReg s.inputs.rdIdx

/-- The port `cmd_ready` (R101, R115). -/
def State.cmdReady (s : State) : Bool := !s.seq.busy

/-- The port `rst_n` in the coming step (R101, R700); released past the end of the list. -/
def State.rstN (s : State) : Bool := s.inputs.rstIn.headD true

/-! ### Single updates -/

/-- Put the sequencer at a position. -/
def State.setSeq (s : State) (q : Seq) : State := { s with seq := q }

/-- `LAT[p] <- v` (R104). -/
def State.setLat (s : State) (p : OutPin) (v : Bool) : State :=
  { s with pins := { s.pins with lat := s.pins.lat.set p v } }

/-- `DIR[p] <- m` (R105). -/
def State.setDir (s : State) (p : OutPin) (m : PinMode) : State :=
  { s with pins := { s.pins with dir := s.pins.dir.set p m } }

/-- `trace <- trace ++ [e]` (R203). -/
def State.record (s : State) (e : Event) : State := { s with trace := s.trace ++ [e] }

/-- `PINBIT <- b` (R203, R403). -/
def State.setPinbit (s : State) (b : Bool) : State := { s with pinbit := b }

/-- `CLASS.CODE <- c` (R203). -/
def State.setClass (s : State) (c : BitVec 2) : State := { s with classCode := c }

/-- The four READPULSE results, written together (R504). -/
def State.setTicks (s : State) (c : Counts) : State :=
  { s with ticks := { high := c.hc, low := c.lc, tovfH := c.ovh, tovfL := c.ovl } }

/-! ### Faults -/

/-- The fault record after a fault (R602): the first is kept whole, every one sets the SEEN bit of its cause. -/
def FaultLog.add (f : FaultLog) (cause : FaultCause) (w : Command) : FaultLog :=
  if f.valid then { f with seen := f.seen ||| seenBit cause }
  else
    { valid := true, cause := causeCode cause, seen := f.seen ||| seenBit cause,
      cmdLo := field w 0 32, cmdHi := field w 32 32 }

/-- `raise Fault(cause, cmd)` (R602): the fault record changes and nothing else (R600, R606). -/
def raiseFault (cause : FaultCause) (w : Command) (s : State) : State :=
  { s with faults := s.faults.add cause w }

/-- A command whose operand is illegal raises its fault (R310), recording its own word (log entry 6). -/
def takeFault (cause : FaultCause) (i : Instr) (s : State) : Result :=
  .next (raiseFault cause (commandWord i) s)

/-! ### Running a command -/

/-- `SEQ <- expand(op, fields)` (R202, R310): the command's micro-operations are still to perform. -/
def start (ops : List MicroOp) (s : State) : Result := .next (s.setSeq (Seq.ofList ops))

/-- `perform(op)` (R203). -/
def perform (op : MicroOp) (s : State) : State :=
  match op with
  | .wr p v => (s.setLat p v).record (.wr p v)
  | .dirw p m => (s.setDir p m).record (.dir p m)
  | .dly n => s.record (.delay n)
  | .tst p => (level p s).2.setPinbit (level p s).1
  | .setclass c => s.setClass c

/-! ### Input ports and steps -/

/-- One step passes on the port `rst_n`. -/
def State.tick (s : State) : State := { s with inputs := { s.inputs with rstIn := s.inputs.rstIn.tail } }

/-- The host's offer at this idle step is used up: taken, or not made (R202). -/
def State.takeOffer (s : State) : State := { s with inputs := { s.inputs with offers := s.inputs.offers.tail } }

/-- What the coming step does (R202, R700). -/
def State.activity (s : State) : Activity :=
  if s.rstN then
    match s.seq with
    | .idle =>
      match s.inputs.offers with
      | some w :: _ => .accept w
      | _ => .nothing
    | .run op rest => .micro op rest
    | .pulse ch ph c => .sample ch ph c
  else .reset

/-- A step with `rst_n = 0` (R700, R701): a running command is abandoned and everything the block holds is at its reset
value, the latches drawn anew. The environment's inputs stand (log entry 5). -/
def resetStep (s : State) : State :=
  State.atReset (Config.resetLatch s.free.resets) s.tick.inputs { s.free with resets := s.free.resets + 1 }

/-- An idle step (R202): "nothing; no event". -/
def idleStep (s : State) : State := s.tick.takeOffer

/-- The state in which an offered command is accepted: its offer is taken (R101, R202). -/
def acceptState (s : State) : State := s.tick.takeOffer

/-- A word that is no instruction: BADOP or RSVD is raised in the acceptance step (R310, R603). -/
def rejectStep (cause : FaultCause) (w : Command) (s : State) : State := raiseFault cause w (acceptState s)

/-- A step of a running command (R202): perform the head, then go on with the rest or be idle. -/
def microStep (op : MicroOp) (rest : List MicroOp) (s : State) : State :=
  (perform op s.tick).setSeq (Seq.ofList rest)

/-- `rst_n` is released in the coming step. -/
def State.releaseRst (s : State) : State :=
  { s with inputs := { s.inputs with rstIn := if s.rstN then s.inputs.rstIn else true :: s.inputs.rstIn } }

/-- The block is idle and the host offers a command at the coming step, before everything else it will offer. -/
def State.offerNext (s : State) (w : Command) : State :=
  { s with seq := .idle, inputs := { s.inputs with offers := some w :: s.inputs.offers } }

/-- The command word by which the next step runs the instruction of a table code: the code itself if it is a command
word, the TXFRAME that sends it if it is a frame (R422; log entry 8). -/
def fetchWord (nbits w : Nat) : Command :=
  match decodeTableWord nbits w with
  | some i => commandWord i
  | none => BitVec.ofNat 64 w

end Sys2Proof.Machine
end

