-- ==== Sys2Proof/Machine/Frame.lean ====
section
/-! DEFINITION. The frame transmitter (41_serial_frame.md): the 29 micro-operations of a frame (R421), TXFRAME (R422) and
its two pseudo-instructions (R423). -/

namespace Sys2Proof.Machine

/-- One bit of a frame (R421): the data bit, then the clock high, then the clock low. -/
def frameBit (b : Bool) : List MicroOp := [.wr .sda b, .wr .sck true, .wr .sck false]

/-- The bit indices of a frame in wire order, `FRAME_BITS - 1` down to 0 (R421, R209). -/
def frameBitOrder : List Nat := (List.range Config.frameBits).reverse

/-- The micro-operations of a frame value (R421): chip-select active, bits 8 down to 0, chip-select idle. -/
def frameOps (f : Frame) : List MicroOp :=
  [.wr .cs false] ++ frameBitOrder.flatMap (fun i => frameBit (f.getLsbD i)) ++ [.wr .cs true]

/-- `frame(dc, b)` (R421): the frame `f = dc : b`. -/
def frame (dc : Bool) (b : Byte) : List MicroOp := frameOps (frameWord dc b)

/-- TXFRAME (R422). -/
def execTxframe (dc : Bool) (payload : Byte) (s : State) : Result := start (frame dc payload) s

/-- SENDCMD, the expansion `TXFRAME 0, b` (R307, R423). -/
def execSendcmd (b : Byte) (s : State) : Result := start (frame false b) s

/-- SENDDATA, the expansion `TXFRAME 1, b` (R307, R423). -/
def execSenddata (b : Byte) (s : State) : Result := start (frame true b) s

end Sys2Proof.Machine
end

