-- ==== Sys2Proof/Machine/Display.lean ====
section
/-! DEFINITION. The display sequencer and the rasterizer (42_display.md): INITDISP (R454), FILLRECT (R460) and the
pseudo-instruction CLEARSCR (R467). -/

namespace Sys2Proof.Machine

/-- The init op-codes, the first ten of R452 in its order (R453). -/
def initOpcodes : List Byte :=
  [Config.opcDisctl, Config.opcComscn, Config.opcOscon, Config.opcSlpout, Config.opcVolctr,
   Config.opcPwrctr, Config.opcDisinv, Config.opcDatctl, Config.opcNop, Config.opcDison]

/-- `INIT_TABLE` (R453), for a choice of the payload parameter. -/
def initTable (payload : Byte → List Byte) : List (Byte × List Byte) := initOpcodes.map fun op => (op, payload op)

/-- A command frame and its payload of data frames (R450): the frames of one op-code. -/
def commandFrames (op : Byte) (payload : List Byte) : List Frame :=
  frameWord false op :: payload.map (frameWord true)

/-- The frames INITDISP sends (R454 step 5). -/
def initFrames (payload : Byte → List Byte) : List Frame :=
  (initTable payload).flatMap fun e => commandFrames e.1 e.2

/-- The micro-operations of a list of frames, one frame after the other. -/
def framesOps (fs : List Frame) : List MicroOp := fs.flatMap frameOps

/-- Steps 1 to 4 of the initialisation (R454): directions, clock and data low, settle, chip-select idle, reset pulse,
clock and data high. -/
def initPreamble (settle : Nat) : List MicroOp :=
  [.dirw .sck .out, .dirw .sda .out, .dirw .cs .out, .dirw .rst .out, .wr .sck false, .wr .sda false,
   .dly settle, .wr .cs true,
   .wr .rst false, .dly Config.tRstLo, .wr .rst true, .dly Config.tRstHi,
   .wr .sck true, .wr .sda true]

/-- `expand(INITDISP)` (R454), for a choice of the OPEN parameters. -/
def expandInitdisp (settle : Nat) (payload : Byte → List Byte) : List MicroOp :=
  initPreamble settle ++ framesOps (initFrames payload)

/-- INITDISP (R454), with the platform's parameters (log entry 3). -/
def execInitdisp (s : State) : Result := start (expandInitdisp Config.tSettle Config.initPayload) s

/-- The three bytes of a pixel pair `(c1, c2)` (R465). -/
def packPair (c1 c2 : Color) : List Byte :=
  [field c1 4 8, (field c1 0 4).setWidth 8 <<< 4 ||| (field c2 8 4).setWidth 8, field c2 0 8]

/-- The row window (R462): the first row and the exact sum `Y + H + 1` modulo 256. -/
def rowWindow (y h : Byte) : List Byte := [y, BitVec.ofNat 8 (y.toNat + h.toNat + 1)]

/-- The column window (R463): the first column and the exact sum `X + W - 1` modulo 256. -/
def columnWindow (x w : Byte) : List Byte := [x, BitVec.ofNat 8 (x.toNat + w.toNat - 1)]

/-- The number of pixel pairs, `floor(W * H / 2)` (R464). -/
def pairCount (w h : Byte) : Nat := w.toNat * h.toNat / 2

/-- The data bytes of the pixel pairs: one triple repeated (R465). -/
def pixelBytes (w h : Byte) (color : Color) : List Byte :=
  (List.replicate (pairCount w h) (packPair color color)).flatten

/-- The frames a FILLRECT sends (R460, R461): row window, column window, memory-write, pixel data. -/
def fillFrames (x y w h : Byte) (color : Color) : List Frame :=
  commandFrames Config.opcPaset (rowWindow y h)
    ++ commandFrames Config.opcCaset (columnWindow x w)
    ++ commandFrames Config.opcRamwr (pixelBytes w h color)

/-- `expand(FILLRECT, ...)` (R460). -/
def expandFillrect (x y w h : Byte) (color : Color) : List MicroOp := framesOps (fillFrames x y w h color)

/-- FILLRECT (R460), or RANGE (R305). -/
def execFillrect (x y w h : Byte) (color : Color) (s : State) : Result :=
  if rectInRange x y w h then start (expandFillrect x y w h color) s
  else takeFault .range (.fillrect x y w h color) s

/-- CLEARSCR, the expansion `FILLRECT 0, 0, 131, 131, 0x000` (R307, R467). -/
def execClearscr (s : State) : Result :=
  start (expandFillrect 0#8 0#8 (BitVec.ofNat 8 Config.screenW) (BitVec.ofNat 8 Config.screenH) Config.black) s

end Sys2Proof.Machine
end

