-- ==== Sys2Proof/Machine/Pin.lean ====
section
/-! DEFINITION. The pin layer commands (40_register_io.md): one micro-operation each (R400), or BADPIN (R604). -/

namespace Sys2Proof.Machine

/-- PINSET (R401). -/
def execPinset (pin : PinIndex) (s : State) : Result :=
  match outPin pin with
  | some p => start [.wr p true] s
  | none => takeFault .badpin (.pinset pin) s

/-- PINCLR (R402). -/
def execPinclr (pin : PinIndex) (s : State) : Result :=
  match outPin pin with
  | some p => start [.wr p false] s
  | none => takeFault .badpin (.pinclr pin) s

/-- PINTEST (R403): also the two inputs may be tested. -/
def execPintest (pin : PinIndex) (s : State) : Result :=
  match anyPin pin with
  | some p => start [.tst p] s
  | none => takeFault .badpin (.pintest pin) s

/-- PINDIR (R404). -/
def execPindir (pin : PinIndex) (mode : PinMode) (s : State) : Result :=
  match outPin pin with
  | some p => start [.dirw p mode] s
  | none => takeFault .badpin (.pindir pin mode) s

end Sys2Proof.Machine
end

