-- ==== Sys2Proof/Machine/Pulse.lean ====
section
/-! DEFINITION. The pulse-duration counter and the threshold classifier (43_pulse.md): READPULSE (R502 to R505) and
CLASSIFY (R510). -/

namespace Sys2Proof.Machine

/-- The working counts at the start of a READPULSE (R505). -/
def Counts.zero : Counts := { hc := 0#Config.tickWidth, lc := 0#Config.tickWidth, ovh := false, ovl := false }

/-- Count a high sample (R502 phase P3, R503). -/
def Counts.countHigh (c : Counts) : Counts :=
  { c with hc := (incSat c.hc c.ovh).1, ovh := (incSat c.hc c.ovh).2 }

/-- Count a low sample (R502 phase P4, R503). -/
def Counts.countLow (c : Counts) : Counts :=
  { c with lc := (incSat c.lc c.ovl).1, ovl := (incSat c.lc c.ovl).2 }

/-- READPULSE (R505): the pulse loop starts at P1 with zero counts. -/
def execReadpulse (ch : Channel) (s : State) : Result := .next (s.setSeq (.pulse ch .p1 Counts.zero))

/-- What a sample does in a phase (R502): the next position of the loop, or `none` when P4 ends. The sample that ends a
phase is consumed by it. -/
def pulseNext (ch : Channel) (ph : Phase) (c : Counts) (sample : Bool) : Option Seq :=
  match ph, sample with
  | .p1, true => some (.pulse ch .p1 c)
  | .p1, false => some (.pulse ch .p2 c)
  | .p2, false => some (.pulse ch .p2 c)
  | .p2, true => some (.pulse ch .p3 c)
  | .p3, true => some (.pulse ch .p3 c.countHigh)
  | .p3, false => some (.pulse ch .p4 c)
  | .p4, false => some (.pulse ch .p4 c.countLow)
  | .p4, true => none

/-- The pulse loop after a sample (R502); at the end of P4 the four results are written together (R504). -/
def pulseAfter (ch : Channel) (ph : Phase) (c : Counts) (sample : Bool) (s : State) : State :=
  match pulseNext ch ph c sample with
  | some q => s.setSeq q
  | none => (s.setTicks c).setSeq .idle

/-- `pulse_step` (R502): one sample of the channel's pin (R501), then the loop. -/
def pulseStep (ch : Channel) (ph : Phase) (c : Counts) (s : State) : State :=
  pulseAfter ch ph c (level (.pulse ch) s.tick).1 (level (.pulse ch) s.tick).2

/-- CLASSIFY (R510): one micro-operation. -/
def execClassify (value : Word32) (s : State) : Result := start [.setclass (classify value)] s

end Sys2Proof.Machine
end

