-- ==== Sys2Proof/Machine/Wire.lean ====
section
/-! DEFINITION. The wire rows of the opcode table: each is a frame the block emits (R321, R322, R452), so its meaning is
that emission, the 29 micro-operations of R421. A host asks for it by TXFRAME (log entry 8). What the display does with
the frame is outside the block (I8). -/

namespace Sys2Proof.Machine

/-- Emit `C(display-control)` (R452, R322). -/
def execWireDisctl (s : State) : Result := start (frame false Config.opcDisctl) s

/-- Emit `C(common-scan-direction)` (R452, R322). -/
def execWireComscn (s : State) : Result := start (frame false Config.opcComscn) s

/-- Emit `C(oscillator-on)` (R452, R322). -/
def execWireOscon (s : State) : Result := start (frame false Config.opcOscon) s

/-- Emit `C(sleep-out)` (R452, R322). -/
def execWireSlpout (s : State) : Result := start (frame false Config.opcSlpout) s

/-- Emit `C(contrast-volume)` (R452, R322). -/
def execWireVolctr (s : State) : Result := start (frame false Config.opcVolctr) s

/-- Emit `C(power-control)` (R452, R322). -/
def execWirePwrctr (s : State) : Result := start (frame false Config.opcPwrctr) s

/-- Emit `C(display-inversion)` (R452, R322). -/
def execWireDisinv (s : State) : Result := start (frame false Config.opcDisinv) s

/-- Emit `C(data-control)` (R452, R322). -/
def execWireDatctl (s : State) : Result := start (frame false Config.opcDatctl) s

/-- Emit `C(no-op)` (R452, R322). -/
def execWireNop (s : State) : Result := start (frame false Config.opcNop) s

/-- Emit `C(display-on)` (R452, R322). -/
def execWireDison (s : State) : Result := start (frame false Config.opcDison) s

/-- Emit `C(page-address-set)` (R452, R322). -/
def execWirePaset (s : State) : Result := start (frame false Config.opcPaset) s

/-- Emit `C(column-address-set)` (R452, R322). -/
def execWireCaset (s : State) : Result := start (frame false Config.opcCaset) s

/-- Emit `C(memory-write)` (R452, R322). -/
def execWireRamwr (s : State) : Result := start (frame false Config.opcRamwr) s

/-- Emit `D(b)` (R321). -/
def execWireData (b : Byte) (s : State) : Result := start (frame true b) s

end Sys2Proof.Machine
end

