-- ==== Sys2Proof/Machine/Dispatch.lean ====
section
/-! DEFINITION. One arm for each row of the opcode table: the meaning of an accepted instruction, R310 from its operand
checks on. -/

namespace Sys2Proof.Machine

def exec (i : Instr) (s : State) : Host.Outcome State Fault Refusal :=
  match i with
  | .txframe dc payload => Sys2Proof.Machine.execTxframe dc payload s
  | .initdisp => Sys2Proof.Machine.execInitdisp s
  | .fillrect x y w h color => Sys2Proof.Machine.execFillrect x y w h color s
  | .readpulse ch => Sys2Proof.Machine.execReadpulse ch s
  | .classify value => Sys2Proof.Machine.execClassify value s
  | .pinset pin => Sys2Proof.Machine.execPinset pin s
  | .pinclr pin => Sys2Proof.Machine.execPinclr pin s
  | .pintest pin => Sys2Proof.Machine.execPintest pin s
  | .pindir pin mode => Sys2Proof.Machine.execPindir pin mode s
  | .sendcmd b => Sys2Proof.Machine.execSendcmd b s
  | .senddata b => Sys2Proof.Machine.execSenddata b s
  | .clearscr => Sys2Proof.Machine.execClearscr s
  | .wireDisctl => Sys2Proof.Machine.execWireDisctl s
  | .wireComscn => Sys2Proof.Machine.execWireComscn s
  | .wireOscon => Sys2Proof.Machine.execWireOscon s
  | .wireSlpout => Sys2Proof.Machine.execWireSlpout s
  | .wireVolctr => Sys2Proof.Machine.execWireVolctr s
  | .wirePwrctr => Sys2Proof.Machine.execWirePwrctr s
  | .wireDisinv => Sys2Proof.Machine.execWireDisinv s
  | .wireDatctl => Sys2Proof.Machine.execWireDatctl s
  | .wireNop => Sys2Proof.Machine.execWireNop s
  | .wireDison => Sys2Proof.Machine.execWireDison s
  | .wirePaset => Sys2Proof.Machine.execWirePaset s
  | .wireCaset => Sys2Proof.Machine.execWireCaset s
  | .wireRamwr => Sys2Proof.Machine.execWireRamwr s
  | .wireData b => Sys2Proof.Machine.execWireData b s

end Sys2Proof.Machine
end

