-- ==== Sys2Proof/Machine/Step.lean ====
section
/-! DEFINITION. One step of the machine (R202, R700) and where an instruction is fetched: the command port, in an idle
step. Everything a step does is an operation of `Ops.lean`, `Pulse.lean` or a meaning. -/

namespace Sys2Proof.Machine

/-- One step of the block (R202): a reset step, an idle step, the acceptance of a command (R310), one micro-operation
(R203) or one pulse sample (R502). -/
def step (s : State) : Host.Outcome State Fault Refusal :=
  match s.activity with
  | .reset => .next (resetStep s)
  | .nothing => .next (idleStep s)
  | .accept w =>
    match decodeCommand w with
    | .instr i => exec i (acceptState s)
    | .badop => .next (rejectStep .badop w s)
    | .rsvd => .next (rejectStep .rsvd w s)
  | .micro op rest => .next (microStep op rest s)
  | .sample ch ph c => .next (pulseStep ch ph c s)

/-- `s` with the instruction of the table code where the next step takes it: idle, `rst_n` released, its command word
offered first (log entries 4 and 8). -/
def State.withFetchWord (s : State) (nbits w : Nat) : State := (s.offerNext (fetchWord nbits w)).releaseRst

end Sys2Proof.Machine
end

