-- ==== Sys2Proof/Machine/Assembler.lean ====
section
/-! DEFINITION. The assembler syntax of a host program (R306) and its pseudo-instructions (R307): one line of characters
to an instruction. An operand that does not fit its field is refused; the operand values of R305 are not (log entry 18). -/

namespace Sys2Proof.Machine

/-- What a line of a program assembles to. -/
inductive Assembled where
  /-- Nothing but white space and a comment. -/
  | blank
  | instr (i : Instr)
  /-- Not a line of R306. -/
  | refused
deriving DecidableEq, Repr

/-- White space between the tokens of a line. -/
def isBlank (c : Char) : Bool := c == ' ' || c == '\t'

/-- A line without its comment: `;` starts one (R306). -/
def dropComment (line : List Char) : List Char := line.takeWhile fun c => c != ';'

/-- A token without the white space around it. -/
def trim (cs : List Char) : List Char := ((cs.dropWhile isBlank).reverse.dropWhile isBlank).reverse

/-- The parts of a text between the commas (R306: operands separated by commas). -/
def splitCommas : List Char → List (List Char)
  | [] => [[]]
  | c :: cs =>
    match splitCommas cs with
    | [] => [[c]]
    | part :: parts => if c == ',' then [] :: part :: parts else (c :: part) :: parts

/-- The value of a decimal digit, or of a hexadecimal digit of either case. -/
def digitValue (base : Nat) (c : Char) : Option Nat :=
  let v :=
    if '0' ≤ c ∧ c ≤ '9' then c.toNat - '0'.toNat
    else if 'a' ≤ c ∧ c ≤ 'f' then c.toNat - 'a'.toNat + 10
    else if 'A' ≤ c ∧ c ≤ 'F' then c.toNat - 'A'.toNat + 10
    else base
  if v < base then some v else none

/-- The value of a list of digits in front of which `acc` was read. -/
def digitsFrom (base acc : Nat) : List Char → Option Nat
  | [] => some acc
  | c :: cs =>
    match digitValue base c with
    | some d => digitsFrom base (base * acc + d) cs
    | none => none

/-- A number, decimal or `0x` hexadecimal (R306). -/
def number : List Char → Option Nat
  | [] => none
  | '0' :: 'x' :: c :: cs => digitsFrom 16 0 (c :: cs)
  | c :: cs => digitsFrom 10 0 (c :: cs)

/-- A numeric operand that fits a field of `len` bits (R306). -/
def fitting (len : Nat) (cs : List Char) : Option (BitVec len) :=
  match number cs with
  | some n => if n < 2 ^ len then some (BitVec.ofNat len n) else none
  | none => none

/-- A one-bit operand, 0 or 1. -/
def bitOperand (cs : List Char) : Option Bool := (fitting 1 cs).map fun b => b == 1#1

/-- A pin: its index or its name (R306, R102). -/
def pinOperand (cs : List Char) : Option PinIndex :=
  match String.ofList cs with
  | "SCK" => some 0#3
  | "SDA" => some 1#3
  | "CS" => some 2#3
  | "RST" => some 3#3
  | "PIN0" => some 4#3
  | "PIN1" => some 5#3
  | _ => fitting 3 cs

/-- A pulse channel: 0, 1, `PIN0` or `PIN1` (R306). -/
def channelOperand (cs : List Char) : Option Channel :=
  match String.ofList cs with
  | "PIN0" => some .pin0
  | "PIN1" => some .pin1
  | _ => (bitOperand cs).map channelOf

/-- A direction: `IN`, `OUT`, 0 or 1 (R306). -/
def modeOperand (cs : List Char) : Option PinMode :=
  match String.ofList cs with
  | "IN" => some .inp
  | "OUT" => some .out
  | _ => (bitOperand cs).map modeOf

/-- The instruction of a mnemonic and its operands (R306, R307). -/
def assembleTokens (mnemonic : List Char) (operands : List (List Char)) : Option Instr :=
  match String.ofList mnemonic, operands with
  | "TXFRAME", [dc, b] => do return .txframe (← bitOperand dc) (← fitting 8 b)
  | "INITDISP", [] => some .initdisp
  | "FILLRECT", [x, y, w, h, c] => do
    return .fillrect (← fitting 8 x) (← fitting 8 y) (← fitting 8 w) (← fitting 8 h) (← fitting Config.pixBits c)
  | "READPULSE", [ch] => (channelOperand ch).map .readpulse
  | "CLASSIFY", [v] => (fitting 32 v).map .classify
  | "PINSET", [p] => (pinOperand p).map .pinset
  | "PINCLR", [p] => (pinOperand p).map .pinclr
  | "PINTEST", [p] => (pinOperand p).map .pintest
  | "PINDIR", [p, m] => do return .pindir (← pinOperand p) (← modeOperand m)
  | "SENDCMD", [b] => (fitting 8 b).map .sendcmd
  | "SENDDATA", [b] => (fitting 8 b).map .senddata
  | "CLEARSCR", [] => some .clearscr
  | _, _ => none

/-- The operands after the mnemonic: none if nothing follows it. -/
def operandsOf (rest : List Char) : List (List Char) :=
  if (trim rest).isEmpty then [] else (splitCommas rest).map trim

/-- Assemble one line (R306). -/
def assembleLine (line : List Char) : Assembled :=
  let text := trim (dropComment line)
  if text.isEmpty then .blank
  else
    let inToken := fun c => !isBlank c
    match assembleTokens (text.takeWhile inToken) (operandsOf (text.dropWhile inToken)) with
    | some i => .instr i
    | none => .refused

/-- The command word of a line, if it assembles (R301, R307). -/
def assembleWord (line : List Char) : Option Command :=
  match assembleLine line with
  | .instr i => some (commandWord i)
  | .blank => none
  | .refused => none

end Sys2Proof.Machine
end

