-- ==== Sys2Proof/Machine/Receiver.lean ====
section
/-! DEFINITION. The observer of the wire: the levels the four display lines show along a trace (R106, R203) and the
reference receiver (R428). "It is not part of the block": nothing here is called by a step (log entry 11). -/

namespace Sys2Proof.Machine

/-- The driven levels of the four display lines (R106); `none` is undriven (Z). -/
abbrev WireLevels := PerPin (Option Bool)

/-- What the block puts on its four display lines (R106). -/
def Pins.wire (s : Pins) : WireLevels where
  sck := s.drive .sck
  sda := s.drive .sda
  cs := s.drive .cs
  rst := s.drive .rst

/-- The pins after an event of the trace (R203). -/
def Pins.after (s : Pins) : Event → Pins
  | .wr p v => { s with lat := s.lat.set p v }
  | .dir p m => { s with dir := s.dir.set p m }
  | .delay _ => s

/-- The pins after a list of events: the trace replayed. -/
def Pins.replay (s : Pins) (es : List Event) : Pins := es.foldl Pins.after s

/-- The event a micro-operation records, if it records one (R203). -/
def MicroOp.event : MicroOp → Option Event
  | .wr p v => some (.wr p v)
  | .dirw p m => some (.dir p m)
  | .dly n => some (.delay n)
  | .tst _ => none
  | .setclass _ => none

/-- The events a list of micro-operations records, in its order (R203, R204). -/
def eventsOf (ops : List MicroOp) : List Event := ops.filterMap MicroOp.event

/-- A line shows a falling edge: it is driven 1 and then driven 0. -/
def fell (before after : Option Bool) : Bool := before == some true && after == some false

/-- A line shows a rising edge: it is driven 0 and then driven 1. -/
def rose (before after : Option Bool) : Bool := before == some false && after == some true

/-- A line shows the given clock edge. -/
def edgeShows : Edge → Option Bool → Option Bool → Bool
  | .falling => fell
  | .rising => rose

/-- How often a line shows an edge along a list of events (R424). -/
def countEdges (e : Edge) (p : OutPin) : Pins → List Event → Nat
  | _, [] => 0
  | s, ev :: rest => (edgeShows e (s.drive p) ((s.after ev).drive p)).toNat + countEdges e p (s.after ev) rest

/-- The levels of the data line at the edges of the clock line along a list of events (R424). -/
def dataAtEdges (e : Edge) : Pins → List Event → List (Option Bool)
  | _, [] => []
  | s, ev :: rest =>
    (if edgeShows e (s.drive .sck) ((s.after ev).drive .sck) then [(s.after ev).drive .sda] else [])
      ++ dataAtEdges e (s.after ev) rest

/-- What the reference receiver delivers at the end of a transaction (R428). -/
inductive Delivery where
  | frame (f : Frame)
  | broken (bits : Nat)
deriving DecidableEq, Repr

/-- The reference receiver: the bits shifted in so far, first bit first (an undriven data line gives `none`), and what it
has delivered. Before the first falling edge of chip-select there is no list of bits yet (log entry 11). -/
structure Receiver where
  shift : Option (List (Option Bool))
  delivered : List Delivery
deriving DecidableEq, Repr

/-- The receiver before it has seen anything. -/
def Receiver.fresh : Receiver := { shift := none, delivered := [] }

/-- The value of a list of bits, the first the most significant (R428: "first bit = bit 8"). -/
def bitsValue (bits : List Bool) : Frame :=
  BitVec.ofNat Config.frameBits (bits.foldl (fun n b => 2 * n + b.toNat) 0)

/-- What a shifted-in list of bits delivers (R428): nothing if a bit was undriven (R429, I12). -/
def deliveryOf : Option (List (Option Bool)) → List Delivery
  | none => []
  | some bits =>
    if bits.all Option.isSome then
      if bits.length = Config.frameBits then [.frame (bitsValue (bits.map fun b => b.getD false))] else [.broken bits.length]
    else []

/-- The receiver watches the wire go from one state of the lines to the next (R428). A transaction that ends with the clock
line undriven delivers nothing (R429). -/
def Receiver.observe (edge : Edge) (before after : WireLevels) (r : Receiver) : Receiver :=
  if fell before.cs after.cs then { r with shift := some [] }
  else if rose before.cs after.cs then
    { r with delivered := r.delivered ++ if after.sck.isSome then deliveryOf r.shift else [] }
  else if after.cs == some false && edgeShows edge before.sck after.sck then
    { r with shift := r.shift.map fun bits => bits ++ [after.sda] }
  else r

/-- The receiver watches a list of events from given pins (R428). -/
def Receiver.watch (edge : Edge) (r : Receiver) : Pins → List Event → Receiver
  | _, [] => r
  | s, ev :: rest => (r.observe edge s.wire (s.after ev).wire).watch edge (s.after ev) rest

/-- What the reference receiver delivers from given pins along a list of events, with `RX_EDGE` (R428). -/
def delivered (s : Pins) (es : List Event) : List Delivery := (Receiver.fresh.watch Config.rxEdge s es).delivered

end Sys2Proof.Machine
end

