-- ==== Sys2Proof/Safety.lean ====
section
/-! DEFINITION. Runs, the end of a run (R722), what a claim about a program takes as its premise (R607), and the machine's
invariant. -/

namespace Sys2Proof.Machine

/-- `k` steps. -/
def run : Nat → State → Result
  | 0, s => .next s
  | k + 1, s =>
    match step s with
    | .next s' => run k s'
    | .fault r => .fault r
    | .refused r => .refused r

/-- `rst_n` is 1 in each of the coming `k` steps (R700). -/
def State.noReset (s : State) (k : Nat) : Prop := ∀ b ∈ s.inputs.rstIn.take k, b = true

/-- `k` steps pass on the port `rst_n`. -/
def State.pass (s : State) (k : Nat) : State :=
  { s with inputs := { s.inputs with rstIn := s.inputs.rstIn.drop k } }

/-- The end of a run of a host program (R722): the last command is handed over, so no word is left to be
offered, and `BUSY = 0`. -/
def State.ended (s : State) : Bool := s.seq == .idle && s.inputs.offers.all Option.isNone

/-- The premise of a claim about a host program (R607): no word without a meaning was offered. -/
def State.faultFree (s : State) : Bool := !s.faults.valid

/-! ### Words for statements -/

/-- The block is idle, `rst_n` is 1 in the coming `n` steps, and the host offers the word `w` and then `later`. -/
structure State.Offering (s : State) (w : Command) (later : List (Option Command)) (n : Nat) : Prop where
  noReset : s.noReset n
  idle : s.seq = .idle
  offers : s.inputs.offers = some w :: later

/-- `s` after its first offer is taken in one step: only the input ports have moved on. -/
def State.accepted (s : State) (later : List (Option Command)) : State :=
  { s with inputs := { s.inputs with rstIn := s.inputs.rstIn.drop 1, offers := later } }

/-- `s` after `n` steps in which exactly the events `es` happened to the pins and the block became idle: latches,
directions and the trace follow the events, and everything else is as it was. -/
def State.afterEvents (s : State) (es : List Event) (n : Nat) : State :=
  { s.pass n with seq := .idle, pins := s.pins.replay es, trace := s.trace ++ es }

/-- The reserved-bit mask of an `OP` value, as the table of R310 lists them. -/
def reservedMask (op : Nat) : Command :=
  if op = 0x01 then 0xFFFFFFFFFFFE0000#64
  else if op = 0x02 then 0xFFFFFFFFFFFFFF00#64
  else if op = 0x03 then 0xFFF0000000000000#64
  else if op = 0x04 then 0xFFFFFFFFFFFFFE00#64
  else if op = 0x05 then 0xFFFFFF0000000000#64
  else if op = 0x0B then 0xFFFFFFFFFFFEF800#64
  else 0xFFFFFFFFFFFFF800#64

/-- The checks of `accept(cmd)` in the order and the words of R310, on the bits of the word alone: the cause of the
fault, or none. The decoder and the meanings are held against it. -/
def acceptCheck (w : Command) : Option FaultCause :=
  let op := (w.extractLsb' 0 8).toNat
  let pin := (w.extractLsb' 8 3).toNat
  if op ∉ [0x01, 0x02, 0x03, 0x04, 0x05, 0x08, 0x09, 0x0A, 0x0B] then some .badop
  else if w &&& reservedMask op ≠ 0#64 then some .rsvd
  else if op ∈ [0x08, 0x09, 0x0A, 0x0B] ∧ pin ∈ [6, 7] then some .badpin
  else if op ∈ [0x08, 0x09, 0x0B] ∧ pin ∈ [4, 5] then some .badpin
  else if op = 0x03 ∧ ¬((w.extractLsb' 8 8).toNat ≤ 130 ∧ (w.extractLsb' 16 8).toNat ≤ 130
      ∧ 1 ≤ (w.extractLsb' 24 8).toNat ∧ (w.extractLsb' 24 8).toNat ≤ 131
      ∧ 1 ≤ (w.extractLsb' 32 8).toNat ∧ (w.extractLsb' 32 8).toNat ≤ 131) then some .range
  else none

/-! ### The invariant -/

/-- A micro-operation writes a legal class code: `0b11` is never produced (R112, R510). -/
def MicroOp.classLegal : MicroOp → Bool
  | .setclass c => c != 0b11#2
  | .wr _ _ => true
  | .dirw _ _ => true
  | .dly _ => true
  | .tst _ => true

/-- The overflow flag of a count is only set at saturation (R503). -/
def saturationOk (count : TickCount) (ov : Bool) : Bool := !ov || count == maxTicks

/-- The sequencer holds only what a command can have put there: no `SETCLASS(0b11)`, no count whose overflow flag is set
below saturation, no low count before phase P4 and no count at all before P3 (R502, R503, R510). -/
def Seq.legal : Seq → Bool
  | .idle => true
  | .run op rest => (op :: rest).all MicroOp.classLegal
  | .pulse _ ph c =>
    saturationOk c.hc c.ovh && saturationOk c.lc c.ovl
      && (ph == .p4 || (c.lc == 0#Config.tickWidth && !c.ovl))
      && (ph == .p3 || ph == .p4 || (c.hc == 0#Config.tickWidth && !c.ovh))

/-- The fault record is one that R602 leaves: empty while no fault was recorded, else a code of R601 whose SEEN bit is set. -/
def FaultLog.legal (f : FaultLog) : Bool :=
  if f.valid then
    decide (1 ≤ f.cause.toNat) && decide (f.cause.toNat ≤ 4) && f.seen.getLsbD (f.cause.toNat - 1)
  else f.cause == 0#3 && f.seen == 0#4 && f.cmdLo == 0#32 && f.cmdHi == 0#32

/-- The tick results are ones that R504 leaves: an overflow flag only with a saturated count (R503, R108). -/
def Ticks.legal (t : Ticks) : Bool := saturationOk t.high t.tovfH && saturationOk t.low t.tovfL

/-- The pins are what the trace says the wire was given since the last reset: the latch draw of that reset, every pin an
input, then every event in order (R104, R105, R203, R700). -/
def State.traceExact (s : State) : Prop :=
  ∃ n, s.free.resets = n + 1
    ∧ s.pins = Pins.replay { lat := Config.resetLatch n, dir := PerPin.all .inp } s.trace

/-- The machine's invariant. -/
structure State.Inv (s : State) : Prop where
  seqLegal : s.seq.legal = true
  faultsLegal : s.faults.legal = true
  ticksLegal : s.ticks.legal = true
  classLegal : s.classCode ≠ 0b11#2
  traceExact : s.traceExact

end Sys2Proof.Machine
end

