-- ==== Sys2Proof/Certificates/Slice0/Obligations.lean ====
section
/-! DEFINITION. The statements for the provers, in the order of the spec's files. A statement of a command is about the
step that accepts its word and the steps after it: `s.accepted later` is the state with the offer taken, `s.pass n` the
state with `n` steps passed on the port `rst_n`; a next state given as a record says that everything else is unchanged. -/

open Sys2Proof Sys2Proof.Machine

/-! ### State and interfaces (10_state.md) -/

/-- R106: `drive` and `level`, and that a level that the block does not drive is a fresh draw of the environment. The form
of the draw is the model's choice (log entry 2): the supplied level, whatever it is, else the free value
`Config.envDraw` at the count of free draws. -/
def Obligations.PinLevelsAreLatchOrFreshDraw : Prop :=
  ∀ s : State,
    (∀ p, s.pins.dir.get p = .out →
      s.pins.drive p = some (s.pins.lat.get p) ∧ level (.out p) s = (s.pins.lat.get p, s))
    ∧ (∀ p, s.pins.dir.get p = .inp → s.pins.drive p = none)
    ∧ (∀ q : Pin, (∀ p, q = .out p → s.pins.dir.get p = .inp) →
      (∀ b rest, s.inputs.env = b :: rest →
        level q s = (b, { s with inputs := { s.inputs with env := rest } }))
      ∧ (s.inputs.env = [] →
        level q s = (Config.envDraw s.free.draws q, { s with free := { s.free with draws := s.free.draws + 1 } })))

/-- R107 and R114: the registers bit by bit, their reset values (of `PINS` all but the latches, which are unspecified), and
the reserved indices. -/
def Obligations.RegisterFieldsReadAsTheTableSays : Prop :=
  (∀ s : State,
    (∀ n, (s.readReg 0#4).getLsbD n =
      ((n == 0 && s.seq != .idle) || (n == 1 && s.ticks.tovfH) || (n == 2 && s.ticks.tovfL) || (n == 3 && s.faults.valid)))
    ∧ (∀ n, (s.readReg 1#4).getLsbD n =
      ((decide (n < 3) && s.faults.cause.getLsbD n) || (decide (4 ≤ n) && s.faults.seen.getLsbD (n - 4))))
    ∧ s.readReg 2#4 = s.faults.cmdLo ∧ s.readReg 3#4 = s.faults.cmdHi
    ∧ s.readReg 4#4 = s.ticks.high ∧ s.readReg 5#4 = s.ticks.low
    ∧ (∀ n, (s.readReg 6#4).getLsbD n = (decide (n < 2) && s.classCode.getLsbD n))
    ∧ (∀ n, (s.readReg 7#4).getLsbD n =
      ((n == 0 && s.pins.dir.sck == .out) || (n == 1 && s.pins.dir.sda == .out)
        || (n == 2 && s.pins.dir.cs == .out) || (n == 3 && s.pins.dir.rst == .out)
        || (n == 8 && s.pins.lat.sck) || (n == 9 && s.pins.lat.sda) || (n == 10 && s.pins.lat.cs)
        || (n == 11 && s.pins.lat.rst) || (n == 16 && s.pinbit)))
    ∧ (∀ idx : BitVec 4, 8 ≤ idx.toNat → s.readReg idx = 0#32))
  ∧ (∀ idx : BitVec 4, idx ≠ 7#4 → State.reset.readReg idx = 0#32)
  ∧ State.reset.readReg 7#4 &&& 0xFFFFF0FF#32 = 0#32

/-- R114: a register read has no side effect, in any step. The index on the read port and what is read through it change
nothing that a step does: two states that differ in `rd_idx` step to states that differ in `rd_idx`. The read gives the
value the last step left, 0 for a reserved index. -/
def Obligations.RegisterReadsDoNotDisturbSteps : Prop :=
  ∀ (s t : State) (idx : BitVec 4), step s = .next t →
    step { s with inputs := { s.inputs with rdIdx := idx } } = .next { t with inputs := { t.inputs with rdIdx := idx } }
      ∧ State.rdData { t with inputs := { t.inputs with rdIdx := idx } } = t.readReg idx
      ∧ (8 ≤ idx.toNat → State.rdData { t with inputs := { t.inputs with rdIdx := idx } } = 0#32)

/-- R115 and R710: BUSY is `SEQ != Idle`, `cmd_ready` is not BUSY, and while BUSY an offered command is held and not taken. -/
def Obligations.BusyBlockHoldsTheOfferedCommand : Prop :=
  (∀ s : State, (s.readReg 0#4).getLsbD 0 = (s.seq != .idle) ∧ s.cmdReady = (s.seq == .idle))
  ∧ (∀ s t : State, s.noReset 1 → s.cmdReady = false → step s = .next t →
      t.inputs.offers = s.inputs.offers ∧ t.faults = s.faults)

/-- R118: the reset values. Nothing is said of the latches, which are unspecified. -/
def Obligations.ResetStateHasTheListedValues : Prop :=
  State.reset.seq = .idle
  ∧ (∀ p, State.reset.pins.dir.get p = .inp)
  ∧ (∀ idx ∈ [0#4, 1#4, 2#4, 3#4, 4#4, 5#4, 6#4], State.reset.readReg idx = 0#32)
  ∧ State.reset.pinbit = false
  ∧ State.reset.trace = []
  ∧ (∀ p, State.reset.pins.drive p = none)

/-- R103 to R113: with `rst_n` at 1, each piece of state is written only by what the spec names: a latch by a `WR` of that
pin, a direction by a `DIRW` of that pin, PINBIT by a `TST`, the class code by a `SETCLASS`, the four READPULSE results by
the sample that ends P4, the fault record in an acceptance step, and the trace only grows, by at most one event. The last
two clauses, that `rd_idx` and the count of latch draws stand, are about the model's own form (log entries 17 and 1). -/
def Obligations.EachFieldIsWrittenOnlyByItsNamedStep : Prop :=
  ∀ s t : State, s.noReset 1 → step s = .next t →
    (∀ p, t.pins.lat.get p ≠ s.pins.lat.get p → ∃ v rest, s.seq = .run (.wr p v) rest)
    ∧ (∀ p, t.pins.dir.get p ≠ s.pins.dir.get p → ∃ m rest, s.seq = .run (.dirw p m) rest)
    ∧ (t.pinbit ≠ s.pinbit → ∃ p rest, s.seq = .run (.tst p) rest)
    ∧ (t.classCode ≠ s.classCode → ∃ c rest, s.seq = .run (.setclass c) rest)
    ∧ (t.ticks ≠ s.ticks → (∃ ch c, s.seq = .pulse ch .p4 c) ∧ t.seq = .idle)
    ∧ (t.faults ≠ s.faults → s.seq = .idle ∧ t.seq = .idle ∧ ∃ w later, s.inputs.offers = some w :: later)
    ∧ (t.trace = s.trace ∨ ∃ e, t.trace = s.trace ++ [e])
    ∧ t.inputs.rdIdx = s.inputs.rdIdx
    ∧ t.free.resets = s.free.resets

/-! ### Steps and order (20_memory.md) -/

/-- R202: what one step does, case by case, and that a legal command always has something to run. -/
def Obligations.OneStepDoesOneOfTheListedThings : Prop :=
  ∀ s : State, s.noReset 1 →
    (s.seq = .idle → s.inputs.offers = [] → step s = .next (s.pass 1))
    ∧ (∀ later, s.seq = .idle → s.inputs.offers = none :: later → step s = .next (s.accepted later))
    ∧ (∀ w later, s.seq = .idle → s.inputs.offers = some w :: later →
      (∀ i, decodeCommand w = .instr i → step s = exec i (s.accepted later))
      ∧ (decodeCommand w = .badop → step s = .next (raiseFault .badop w (s.accepted later)))
      ∧ (decodeCommand w = .rsvd → step s = .next (raiseFault .rsvd w (s.accepted later))))
    ∧ (∀ op rest, s.seq = .run op rest → step s = .next ((perform op (s.pass 1)).setSeq (Seq.ofList rest)))
    ∧ (∀ ch ph c, s.seq = .pulse ch ph c →
      step s = .next (pulseAfter ch ph c (level (.pulse ch) (s.pass 1)).1 (level (.pulse ch) (s.pass 1)).2))
    ∧ (∀ i t, i.wf = true → exec i s = .next t → t.seq ≠ .idle)

/-- R203: what each micro-operation does, and that it does nothing else. -/
def Obligations.MicroOperationsDoWhatPerformSays : Prop :=
  ∀ s : State,
    (∀ p v, perform (.wr p v) s =
      { s with pins := { s.pins with lat := s.pins.lat.set p v }, trace := s.trace ++ [.wr p v] })
    ∧ (∀ p m, perform (.dirw p m) s =
      { s with pins := { s.pins with dir := s.pins.dir.set p m }, trace := s.trace ++ [.dir p m] })
    ∧ (∀ n, perform (.dly n) s = { s with trace := s.trace ++ [.delay n] })
    ∧ (∀ p, perform (.tst p) s = { (level p s).2 with pinbit := (level p s).1 })
    ∧ (∀ c, perform (.setclass c) s = { s with classCode := c })

/-- R204 and R608: a list of micro-operations runs to its end in as many steps as it is long, in list order; the trace
grows by exactly its events and the pins follow them; no command is taken and no fault, tick result or class code changes
unless an operation of the list writes it. -/
def Obligations.MicroOperationListsRunInOrderToTheEnd : Prop :=
  ∀ (ops : List MicroOp) (s : State), s.noReset ops.length →
    ∃ t, run ops.length (s.setSeq (Seq.ofList ops)) = .next t
      ∧ t.seq = .idle
      ∧ t.trace = s.trace ++ eventsOf ops
      ∧ t.pins = s.pins.replay (eventsOf ops)
      ∧ t.faults = s.faults ∧ t.ticks = s.ticks
      ∧ ((∀ c, MicroOp.setclass c ∉ ops) → t.classCode = s.classCode)
      ∧ ((∀ p, MicroOp.tst p ∉ ops) → t.pinbit = s.pinbit ∧ t.free = s.free ∧ t.inputs.env = s.inputs.env)
      ∧ t.inputs.offers = s.inputs.offers

/-- R204: while a list of micro-operations runs the block is BUSY and takes no command. -/
def Obligations.NoCommandIsTakenBeforeTheListEnds : Prop :=
  ∀ (ops : List MicroOp) (s : State) (n : Nat), n < ops.length → s.noReset n →
    ∃ t, run n (s.setSeq (Seq.ofList ops)) = .next t
      ∧ t.seq.busy = true ∧ t.cmdReady = false ∧ t.inputs.offers = s.inputs.offers
      ∧ t.trace = s.trace ++ eventsOf (ops.take n)

/-! ### Encodings (30_encoding.md) -/

/-- R303 and R304: which words are illegal and that accepting one raises its fault, and that every other word is an
instruction. -/
def Obligations.IllegalOpcodesAndReservedBitsAreRejected : Prop :=
  ∀ w : Command,
    (decodeCommand w = .badop ↔
      (field w 0 8).toNat ∉ [0x01, 0x02, 0x03, 0x04, 0x05, 0x08, 0x09, 0x0A, 0x0B])
    ∧ (decodeCommand w = .rsvd ↔
      (field w 0 8).toNat ∈ [0x01, 0x02, 0x03, 0x04, 0x05, 0x08, 0x09, 0x0A, 0x0B]
        ∧ w &&& reservedMask (field w 0 8).toNat ≠ 0#64)
    ∧ ((∃ i, decodeCommand w = .instr i) ↔
      (field w 0 8).toNat ∈ [0x01, 0x02, 0x03, 0x04, 0x05, 0x08, 0x09, 0x0A, 0x0B]
        ∧ w &&& reservedMask (field w 0 8).toNat = 0#64)
    ∧ (∀ (s : State) (later : List (Option Command)), s.Offering w later 1 →
      ((field w 0 8).toNat ∉ [0x01, 0x02, 0x03, 0x04, 0x05, 0x08, 0x09, 0x0A, 0x0B] →
        step s = .next (raiseFault .badop w (s.accepted later)))
      ∧ ((field w 0 8).toNat ∈ [0x01, 0x02, 0x03, 0x04, 0x05, 0x08, 0x09, 0x0A, 0x0B] →
        w &&& reservedMask (field w 0 8).toNat ≠ 0#64 →
        step s = .next (raiseFault .rsvd w (s.accepted later))))

/-- R301: every word that has a row's match under the row's mask of the opcode table decodes to that row's command, each
field read at its bits. -/
def Obligations.OpcodeTableRowsDecodeWithTheirFields : Prop :=
  ∀ w : Command,
    (w &&& 0xFFFFFFFFFFFE00FF#64 = 0x01#64 → decodeCommand w = .instr (.txframe (w.getLsbD 16) (field w 8 8)))
    ∧ (w &&& 0xFFFFFFFFFFFFFFFF#64 = 0x02#64 → decodeCommand w = .instr .initdisp)
    ∧ (w &&& 0xFFF00000000000FF#64 = 0x03#64 →
      decodeCommand w = .instr (.fillrect (field w 8 8) (field w 16 8) (field w 24 8) (field w 32 8) (field w 40 12)))
    ∧ (w &&& 0xFFFFFFFFFFFFFEFF#64 = 0x04#64 →
      decodeCommand w = .instr (.readpulse (if w.getLsbD 8 then .pin1 else .pin0)))
    ∧ (w &&& 0xFFFFFF00000000FF#64 = 0x05#64 → decodeCommand w = .instr (.classify (field w 8 32)))
    ∧ (w &&& 0xFFFFFFFFFFFFF8FF#64 = 0x08#64 → decodeCommand w = .instr (.pinset (field w 8 3)))
    ∧ (w &&& 0xFFFFFFFFFFFFF8FF#64 = 0x09#64 → decodeCommand w = .instr (.pinclr (field w 8 3)))
    ∧ (w &&& 0xFFFFFFFFFFFFF8FF#64 = 0x0A#64 → decodeCommand w = .instr (.pintest (field w 8 3)))
    ∧ (w &&& 0xFFFFFFFFFFFEF8FF#64 = 0x0B#64 →
      decodeCommand w = .instr (.pindir (field w 8 3) (if w.getLsbD 16 then .out else .inp)))

/-- R310, R600 and R605: the acceptance step of a word is `accept`: the first failing check decides the one fault, which
changes the fault record alone; a word that passes them all is an instruction with legal operands that starts to run and
leaves the fault record alone. -/
def Obligations.AcceptanceFollowsTheOrderedChecks : Prop :=
  ∀ (s : State) (w : Command) (later : List (Option Command)), s.Offering w later 1 →
    (∀ c, acceptCheck w = some c → step s = .next (raiseFault c w (s.accepted later)))
    ∧ (acceptCheck w = none →
      ∃ i q, decodeCommand w = .instr i ∧ i.wf = true ∧ q ≠ .idle
        ∧ exec i (s.accepted later) = .next ((s.accepted later).setSeq q)
        ∧ step s = .next ((s.accepted later).setSeq q))

/-- The encoder and the decoder agree: the code of every instruction, at every value of every operand, decodes to it (a
pseudo-instruction to its expansion, R307), and its command word decodes to the command it is. -/
def Obligations.DecodingAnEncodedInstructionGivesItBack : Prop :=
  ∀ i : Instr, decode (encode i) = .instr i.decoded

/-- Each word has one meaning: a command word that decodes to an instruction is that instruction's word, and a frame that
decodes is that instruction's frame. No bit of a word is dropped. -/
def Obligations.EncodingADecodedWordGivesItBack : Prop :=
  (∀ (w : Command) (i : Instr), decodeCommand w = .instr i → commandWord i = w)
  ∧ (∀ (f : Frame) (i : Instr), decodeFrame f = some i → encode i = .frame f)

/-- The example words of the spec decode to the instructions they stand for (R401 to R404, R422, R454, R460, R505, R510,
R452). -/
def Obligations.ExampleWordsDecodeAsWritten : Prop :=
  decodeCommand 0x0000000000000208#64 = .instr (.pinset 2#3)
  ∧ decodeCommand 0x0000000000000309#64 = .instr (.pinclr 3#3)
  ∧ decodeCommand 0x000000000000040A#64 = .instr (.pintest 4#3)
  ∧ decodeCommand 0x000000000001000B#64 = .instr (.pindir 0#3 .out)
  ∧ decodeCommand 0x000000000000CA01#64 = .instr (.txframe false 0xCA#8)
  ∧ decodeCommand 0x0000000000000002#64 = .instr .initdisp
  ∧ decodeCommand 0x000FFF0A0A000003#64 = .instr (.fillrect 0#8 0#8 10#8 10#8 0xFFF#12)
  ∧ decodeCommand 0x0000000000000004#64 = .instr (.readpulse .pin0)
  ∧ decodeCommand 0x0000000000138805#64 = .instr (.classify 5000#32)
  ∧ decodeFrame 0b001011100#9 = some .wireRamwr
  ∧ decodeFrame 0b101011010#9 = some (.wireData 0x5A#8)

/-- Every instruction of the table runs by its command word: offered to an idle block, the next step is `exec` of the
instruction. For a pseudo-instruction and a wire row the word is that of the command that has its effect (log entries 7, 8). -/
def Obligations.StepRunsEveryInstructionByItsWord : Prop :=
  ∀ (i : Instr) (s : State) (later : List (Option Command)), s.Offering (commandWord i) later 1 →
    step s = exec i (s.accepted later)

/-- The step runs the decoded instruction: an idle block with a word on the command port that decodes to `i` takes the offer
and does `exec i` (R202, R310). -/
def Obligations.StepRunsTheDecodedInstruction : Prop :=
  ∀ (s : State) (w : Command) (later : List (Option Command)) (i : Instr), s.Offering w later 1 →
    decodeCommand w = .instr i → step s = exec i (s.accepted later)

/-- R306: a numeric operand that does not fit its field is refused, one that fits is taken as it stands, and the operand
values of R305 are not refused; a line of each of the nine commands assembles to its instruction (the lines give pins
by number and by name, a channel and a direction by name). That a text that is no number is refused where a number must stand, and the details
of the lines, are the model's choice (log entry 18). -/
def Obligations.AssemblerTakesExactlyTheFittingOperands : Prop :=
  (∀ (len : Nat) (cs : List Char) (n : Nat), number cs = some n →
    fitting len cs = if n < 2 ^ len then some (BitVec.ofNat len n) else none)
  ∧ (∀ (len : Nat) (cs : List Char), number cs = none → fitting len cs = none)
  ∧ assembleLine "TXFRAME 1, 0xA5".toList = .instr (.txframe true 0xA5#8)
  ∧ assembleLine "INITDISP".toList = .instr .initdisp
  ∧ assembleLine "FILLRECT 2, 3, 2, 2, 0xABC ; a square".toList = .instr (.fillrect 2#8 3#8 2#8 2#8 0xABC#12)
  ∧ assembleLine "READPULSE PIN1".toList = .instr (.readpulse .pin1)
  ∧ assembleLine "CLASSIFY 5000".toList = .instr (.classify 5000#32)
  ∧ assembleLine "PINSET CS".toList = .instr (.pinset 2#3)
  ∧ assembleLine "PINCLR 7".toList = .instr (.pinclr 7#3)
  ∧ assembleLine "PINTEST PIN0".toList = .instr (.pintest 4#3)
  ∧ assembleLine "PINDIR SCK, OUT".toList = .instr (.pindir 0#3 .out)
  ∧ assembleLine "FILLRECT 131, 0, 0, 1, 0".toList = .instr (.fillrect 131#8 0#8 0#8 1#8 0#12)
  ∧ assembleLine "PINSET 8".toList = .refused

/-! ### Pin commands (40_register_io.md) -/

/-- R401: PINSET, from its word on. -/
def Obligations.PinsetSetsTheLatch : Prop :=
  ∀ (s : State) (w : Command) (later : List (Option Command)), s.Offering w later 2 → field w 0 8 = 0x08#8 →
    (w &&& 0xFFFFFFFFFFFFF800#64 ≠ 0#64 → step s = .next (raiseFault .rsvd w (s.accepted later)))
    ∧ (w &&& 0xFFFFFFFFFFFFF800#64 = 0#64 → 4 ≤ (field w 8 3).toNat →
      exec (.pinset (field w 8 3)) (s.accepted later) = .next (raiseFault .badpin w (s.accepted later))
      ∧ step s = .next (raiseFault .badpin w (s.accepted later)))
    ∧ (∀ p : OutPin, w &&& 0xFFFFFFFFFFFFF800#64 = 0#64 → field w 8 3 = outPinIndex p →
      exec (.pinset (field w 8 3)) (s.accepted later) = .next ((s.accepted later).setSeq (.run (.wr p true) []))
      ∧ step s = .next ((s.accepted later).setSeq (.run (.wr p true) []))
      ∧ run 2 s = .next { (s.accepted later).pass 1 with
          seq := .idle
          pins := { s.pins with lat := s.pins.lat.set p true }
          trace := s.trace ++ [.wr p true] })

/-- R402: PINCLR, from its word on. -/
def Obligations.PinclrClearsTheLatch : Prop :=
  ∀ (s : State) (w : Command) (later : List (Option Command)), s.Offering w later 2 → field w 0 8 = 0x09#8 →
    (w &&& 0xFFFFFFFFFFFFF800#64 ≠ 0#64 → step s = .next (raiseFault .rsvd w (s.accepted later)))
    ∧ (w &&& 0xFFFFFFFFFFFFF800#64 = 0#64 → 4 ≤ (field w 8 3).toNat →
      exec (.pinclr (field w 8 3)) (s.accepted later) = .next (raiseFault .badpin w (s.accepted later))
      ∧ step s = .next (raiseFault .badpin w (s.accepted later)))
    ∧ (∀ p : OutPin, w &&& 0xFFFFFFFFFFFFF800#64 = 0#64 → field w 8 3 = outPinIndex p →
      exec (.pinclr (field w 8 3)) (s.accepted later) = .next ((s.accepted later).setSeq (.run (.wr p false) []))
      ∧ step s = .next ((s.accepted later).setSeq (.run (.wr p false) []))
      ∧ run 2 s = .next { (s.accepted later).pass 1 with
          seq := .idle
          pins := { s.pins with lat := s.pins.lat.set p false }
          trace := s.trace ++ [.wr p false] })

/-- R403: PINTEST, from its word on; no event is recorded, and the inputs 4 and 5 may be tested. -/
def Obligations.PintestReadsTheLevel : Prop :=
  ∀ (s : State) (w : Command) (later : List (Option Command)), s.Offering w later 2 → field w 0 8 = 0x0A#8 →
    (w &&& 0xFFFFFFFFFFFFF800#64 ≠ 0#64 → step s = .next (raiseFault .rsvd w (s.accepted later)))
    ∧ (w &&& 0xFFFFFFFFFFFFF800#64 = 0#64 → 6 ≤ (field w 8 3).toNat →
      exec (.pintest (field w 8 3)) (s.accepted later) = .next (raiseFault .badpin w (s.accepted later))
      ∧ step s = .next (raiseFault .badpin w (s.accepted later)))
    ∧ (∀ p : Pin, w &&& 0xFFFFFFFFFFFFF800#64 = 0#64 → field w 8 3 = pinIndex p →
      exec (.pintest (field w 8 3)) (s.accepted later) = .next ((s.accepted later).setSeq (.run (.tst p) []))
      ∧ step s = .next ((s.accepted later).setSeq (.run (.tst p) []))
      ∧ run 2 s = .next { (level p ((s.accepted later).pass 1)).2 with
          seq := .idle
          pinbit := (level p ((s.accepted later).pass 1)).1 })

/-- R404: PINDIR, from its word on; the pin then drives its current latch, or is released. -/
def Obligations.PindirWritesTheDirection : Prop :=
  ∀ (s : State) (w : Command) (later : List (Option Command)), s.Offering w later 2 → field w 0 8 = 0x0B#8 →
    (w &&& 0xFFFFFFFFFFFEF800#64 ≠ 0#64 → step s = .next (raiseFault .rsvd w (s.accepted later)))
    ∧ (∀ m : PinMode, w &&& 0xFFFFFFFFFFFEF800#64 = 0#64 → 4 ≤ (field w 8 3).toNat →
        m = (if w.getLsbD 16 then .out else .inp) →
      exec (.pindir (field w 8 3) m) (s.accepted later) = .next (raiseFault .badpin w (s.accepted later))
      ∧ step s = .next (raiseFault .badpin w (s.accepted later)))
    ∧ (∀ (p : OutPin) (m : PinMode), w &&& 0xFFFFFFFFFFFEF800#64 = 0#64 → field w 8 3 = outPinIndex p →
        m = (if w.getLsbD 16 then .out else .inp) →
      exec (.pindir (field w 8 3) m) (s.accepted later) = .next ((s.accepted later).setSeq (.run (.dirw p m) []))
      ∧ step s = .next ((s.accepted later).setSeq (.run (.dirw p m) []))
      ∧ ∃ t, run 2 s = .next t
        ∧ t = { (s.accepted later).pass 1 with
            seq := .idle
            pins := { s.pins with dir := s.pins.dir.set p m }
            trace := s.trace ++ [.dir p m] }
        ∧ t.pins.drive p = (if m = .out then some (s.pins.lat.get p) else none))

/-! ### Frames (41_serial_frame.md) -/

/-- R421: the micro-operations of a frame, with `f = dc : b` (R320). -/
def Obligations.FrameIsTheListedMicroOperations : Prop :=
  ∀ (dc : Bool) (b : Byte), ∃ f : Frame,
    f.getLsbD 8 = dc ∧ (∀ i, i < 8 → f.getLsbD i = b.getLsbD i)
    ∧ frame dc b =
      [.wr .cs false]
        ++ [8, 7, 6, 5, 4, 3, 2, 1, 0].flatMap
          (fun i => [.wr .sda (f.getLsbD i), .wr .sck true, .wr .sck false])
        ++ [.wr .cs true]
    ∧ (frame dc b).length = 29

/-- R422: TXFRAME, from its word on: 29 micro-steps and 29 `Wr` events, whatever the directions are (R429), and nothing but
the latches and the trace changes. -/
def Obligations.TxframeSendsItsFrame : Prop :=
  ∀ (s : State) (w : Command) (later : List (Option Command)), s.Offering w later 30 → field w 0 8 = 0x01#8 →
    (w &&& 0xFFFFFFFFFFFE0000#64 ≠ 0#64 → step s = .next (raiseFault .rsvd w (s.accepted later)))
    ∧ (w &&& 0xFFFFFFFFFFFE0000#64 = 0#64 →
      ∀ (dc : Bool) (b : Byte), dc = w.getLsbD 16 → b = field w 8 8 →
        exec (.txframe dc b) (s.accepted later) = .next ((s.accepted later).setSeq (Seq.ofList (frame dc b)))
        ∧ step s = .next ((s.accepted later).setSeq (Seq.ofList (frame dc b)))
        ∧ run 30 s = .next ((s.accepted later).afterEvents (eventsOf (frame dc b)) 29)
        ∧ (eventsOf (frame dc b)).length = 29)

/-- R423: the derived operations emit exactly `frame(0, b)` and `frame(1, b)`, as the TXFRAME they stand for does. -/
def Obligations.SendcmdAndSenddataAreTxframe : Prop :=
  ∀ (b : Byte) (s : State),
    exec (.sendcmd b) s = .next (s.setSeq (Seq.ofList (frame false b)))
    ∧ exec (.senddata b) s = .next (s.setSeq (Seq.ofList (frame true b)))
    ∧ exec (.sendcmd b) s = exec (.txframe false b) s
    ∧ exec (.senddata b) s = exec (.txframe true b) s
    ∧ commandWord (.sendcmd b) = commandWord (.txframe false b)
    ∧ commandWord (.senddata b) = commandWord (.txframe true b)
    ∧ (s.noReset 29 →
      run 29 (s.setSeq (Seq.ofList (frame false b))) = .next (s.afterEvents (eventsOf (frame false b)) 29)
      ∧ run 29 (s.setSeq (Seq.ofList (frame true b))) = .next (s.afterEvents (eventsOf (frame true b)) 29))

/-- R424: a frame has 9 writes of the clock high and 9 low; it shows 9 falling edges of a driven clock, at each of which the data line holds the bit of that pulse, most
significant first; and 9 rising edges if the clock was low when it started, 8 if it was high. -/
def Obligations.FrameShowsNineClockPulses : Prop :=
  ∀ (s : Pins) (dc : Bool) (b : Byte), s.dir.sck = .out → s.dir.sda = .out →
    (eventsOf (frame dc b)).count (.wr .sck true) = 9
    ∧ (eventsOf (frame dc b)).count (.wr .sck false) = 9
    ∧ countEdges .falling .sck s (eventsOf (frame dc b)) = 9
    ∧ countEdges .rising .sck s (eventsOf (frame dc b)) = (if s.lat.sck then 8 else 9)
    ∧ dataAtEdges .falling s (eventsOf (frame dc b)) =
      [some dc, some (b.getLsbD 7), some (b.getLsbD 6), some (b.getLsbD 5), some (b.getLsbD 4), some (b.getLsbD 3),
        some (b.getLsbD 2), some (b.getLsbD 1), some (b.getLsbD 0)]

/-- R425: the pins after a frame. -/
def Obligations.FrameLeavesChipSelectHighAndClockLow : Prop :=
  ∀ (s : Pins) (dc : Bool) (b : Byte),
    s.replay (eventsOf (frame dc b)) =
      { dir := s.dir, lat := { sck := false, sda := b.getLsbD 0, cs := true, rst := s.lat.rst } }

/-- R426: data changes only on a write of it, which in a frame follows the clock write to low of the previous bit, so that
the clock is low then, or is the first bit's and follows the chip-select write, when the clock may be high. -/
def Obligations.DataIsWrittenWhileTheClockIsLowOrFirstInTheFrame : Prop :=
  ∀ (s : Pins) (dc : Bool) (b : Byte) (before after : List Event) (v : Bool),
    eventsOf (frame dc b) = before ++ .wr .sda v :: after →
      (before = [.wr .cs false]
        ∨ (∃ earlier, before = earlier ++ [.wr .sck false]) ∧ (s.replay before).lat.sck = false)
      ∧ ∀ (pins : Pins) (e : Event), (pins.after e).lat.sda ≠ pins.lat.sda → ∃ v, e = .wr .sda v

/-- R430: a frame is delivered by the reference receiver as `dc : b`, whatever the clock was at its start, if the clock, data
and chip-select lines are outputs and chip-select was idle; and it has exactly 9 clock pulses. -/
def Obligations.FrameIsDeliveredAsSent : Prop :=
  ∀ (s : State) (dc : Bool) (b : Byte), s.noReset 29 →
    s.pins.dir.sck = .out → s.pins.dir.sda = .out → s.pins.dir.cs = .out → s.pins.lat.cs = true →
    ∃ t es, exec (.txframe dc b) s = .next t ∧ run 29 t = .next (s.afterEvents es 29)
      ∧ countEdges .falling .sck s.pins es = 9
      ∧ ∃ f : Frame, delivered s.pins es = [.frame f]
        ∧ f.getLsbD 8 = dc ∧ ∀ i, i < 8 → f.getLsbD i = b.getLsbD i

/-- R428 and R714: a receiver that samples on the rising edge misses a bit of a frame that starts with the clock high. -/
def Obligations.RisingEdgeReceiverBreaksAFrameStartedHigh : Prop :=
  ∀ (s : Pins) (dc : Bool) (b : Byte),
    s.dir.sck = .out → s.dir.sda = .out → s.dir.cs = .out → s.lat.cs = true → s.lat.sck = true →
    (Receiver.fresh.watch .rising s (eventsOf (frame dc b))).delivered = [.broken 8]

/-- R429: a frame sent while chip-select, clock or data is an input runs and changes the latches and the trace as it does
otherwise, and delivers nothing. What undriven levels do in the receiver is the model's reading (log entry 11). -/
def Obligations.UndrivenFrameDeliversNothing : Prop :=
  ∀ (s : State) (dc : Bool) (b : Byte), s.noReset 29 →
    s.pins.dir.cs = .inp ∨ s.pins.dir.sck = .inp ∨ s.pins.dir.sda = .inp →
    ∃ t, exec (.txframe dc b) s = .next t
      ∧ run 29 t = .next (s.afterEvents (eventsOf (frame dc b)) 29)
      ∧ delivered s.pins (eventsOf (frame dc b)) = []

/-- R452 and R322: each wire command row is the frame `C(op)` of its op-code, and its meaning is that the block emits it. That
a wire row is run by the TXFRAME that sends it is the model's choice (log entry 8). -/
def Obligations.WireCommandRowsEmitTheirOpcode : Prop :=
  ∀ (s : State) (e : Instr × Byte),
    e ∈ [(Instr.wireDisctl, 0xCA#8), (.wireComscn, 0xBB#8), (.wireOscon, 0xD1#8), (.wireSlpout, 0x94#8),
        (.wireVolctr, 0x81#8), (.wirePwrctr, 0x20#8), (.wireDisinv, 0xA7#8), (.wireDatctl, 0xBC#8), (.wireNop, 0x25#8),
        (.wireDison, 0xAF#8), (.wirePaset, 0x75#8), (.wireCaset, 0x15#8), (.wireRamwr, 0x5C#8)] →
      exec e.1 s = .next (s.setSeq (Seq.ofList (frame false e.2)))
      ∧ decodeFrame (BitVec.ofNat 9 e.2.toNat) = some e.1
      ∧ encode e.1 = .frame (BitVec.ofNat 9 e.2.toNat)
      ∧ (s.noReset 29 →
        run 29 (s.setSeq (Seq.ofList (frame false e.2))) = .next (s.afterEvents (eventsOf (frame false e.2)) 29))

/-- R321: a data frame is `0x100 + b`, for every byte, op-codes included (R322), and its meaning is that the block emits it
(log entry 8). -/
def Obligations.WireDataRowEmitsItsByte : Prop :=
  ∀ (s : State) (b : Byte),
    exec (.wireData b) s = .next (s.setSeq (Seq.ofList (frame true b)))
    ∧ decodeFrame (BitVec.ofNat 9 (0x100 + b.toNat)) = some (.wireData b)
    ∧ encode (.wireData b) = .frame (BitVec.ofNat 9 (0x100 + b.toNat))
    ∧ (s.noReset 29 →
      run 29 (s.setSeq (Seq.ofList (frame true b))) = .next (s.afterEvents (eventsOf (frame true b)) 29))

/-! ### Display (42_display.md) -/

/-- R453 and R454: INITDISP, from its word on: its steps 1 to 5 written out, for every value of the OPEN parameters, and
that it runs to its end in `14 + 29 * (10 + P)` micro-steps. -/
def Obligations.InitdispRunsItsSequence : Prop :=
  ∀ (s : State) (w : Command) (later : List (Option Command)) (ops : List MicroOp) (payloadLength : Nat),
    ops =
      [.dirw .sck .out, .dirw .sda .out, .dirw .cs .out, .dirw .rst .out, .wr .sck false, .wr .sda false,
        .dly Config.tSettle, .wr .cs true, .wr .rst false, .dly 200, .wr .rst true, .dly 200, .wr .sck true, .wr .sda true]
        ++ [0xCA#8, 0xBB#8, 0xD1#8, 0x94#8, 0x81#8, 0x20#8, 0xA7#8, 0xBC#8, 0x25#8, 0xAF#8].flatMap
          (fun op => frame false op ++ (Config.initPayload op).flatMap (frame true)) →
    payloadLength =
      ([0xCA#8, 0xBB#8, 0xD1#8, 0x94#8, 0x81#8, 0x20#8, 0xA7#8, 0xBC#8, 0x25#8, 0xAF#8].map
        (fun op => (Config.initPayload op).length)).sum →
    s.Offering w later (1 + (14 + 29 * (10 + payloadLength))) → field w 0 8 = 0x02#8 →
    (w &&& 0xFFFFFFFFFFFFFF00#64 ≠ 0#64 → step s = .next (raiseFault .rsvd w (s.accepted later)))
    ∧ (w &&& 0xFFFFFFFFFFFFFF00#64 = 0#64 →
      exec .initdisp (s.accepted later) = .next ((s.accepted later).setSeq (Seq.ofList ops))
      ∧ step s = .next ((s.accepted later).setSeq (Seq.ofList ops))
      ∧ run (1 + (14 + 29 * (10 + payloadLength))) s =
        .next ((s.accepted later).afterEvents (eventsOf ops) (14 + 29 * (10 + payloadLength))))

/-- R456: the pins after INITDISP, for every value of the OPEN parameters. -/
def Obligations.InitdispLeavesTheListedPins : Prop :=
  ∀ (s : Pins) (settle : Nat) (payload : Byte → List Byte),
    s.replay (eventsOf (expandInitdisp settle payload)) =
      { dir := { sck := .out, sda := .out, cs := .out, rst := .out },
        lat := { sck := false, sda := (((0xAF#8) :: payload 0xAF#8).getLast (by simp)).getLsbD 0, cs := true, rst := true } }

/-- R454 step 5 and R450: from any pins, the reference receiver is delivered the ten init op-codes in the order of R452, each
followed by its payload as data frames, for every value of the OPEN parameters. That the receiver delivers nothing before
its first falling edge of chip-select, from any pins, is the model's reading (log entry 11). -/
def Obligations.InitdispDeliversTheOpcodeTable : Prop :=
  ∀ (s : Pins) (settle : Nat) (payload : Byte → List Byte),
    delivered s (eventsOf (expandInitdisp settle payload)) =
      [0xCA#8, 0xBB#8, 0xD1#8, 0x94#8, 0x81#8, 0x20#8, 0xA7#8, 0xBC#8, 0x25#8, 0xAF#8].flatMap
        (fun op => .frame (BitVec.ofNat 9 op.toNat) :: (payload op).map (fun d => .frame (BitVec.ofNat 9 (0x100 + d.toNat))))

/-- R711: in INITDISP the chip-select line drives its old latch after its direction write until `WR(CS, 1)`, and the reset
line drives its old latch until `WR(RST, 0)`. -/
def Obligations.InitdispDrivesOldLatchesAtFirst : Prop :=
  ∀ (s : Pins) (settle : Nat) (payload : Byte → List Byte) (n : Nat),
    (3 ≤ n → n ≤ 7 → (s.replay ((eventsOf (expandInitdisp settle payload)).take n)).drive .cs = some s.lat.cs)
    ∧ (4 ≤ n → n ≤ 8 → (s.replay ((eventsOf (expandInitdisp settle payload)).take n)).drive .rst = some s.lat.rst)

/-- R460 to R464: FILLRECT, from its word on: the frames it sends written out, the range fault, and that it runs to its end
in `29 * (7 + 3 * N)` micro-steps. -/
def Obligations.FillrectSendsWindowAndPixels : Prop :=
  ∀ (s : State) (w : Command) (later : List (Option Command)) (x y wd h : Byte) (color : Color) (n : Nat)
    (ops : List MicroOp),
    x = field w 8 8 → y = field w 16 8 → wd = field w 24 8 → h = field w 32 8 → color = field w 40 12 →
    n = wd.toNat * h.toNat / 2 →
    ops =
      frame false 0x75#8 ++ frame true y ++ frame true (BitVec.ofNat 8 ((y.toNat + h.toNat + 1) % 256))
        ++ frame false 0x15#8 ++ frame true x ++ frame true (BitVec.ofNat 8 ((x.toNat + wd.toNat - 1) % 256))
        ++ frame false 0x5C#8
        ++ (List.replicate n
          (frame true (field color 4 8)
            ++ frame true ((field color 0 4).setWidth 8 <<< 4 ||| (field color 8 4).setWidth 8)
            ++ frame true (field color 0 8))).flatten →
    s.Offering w later (1 + 29 * (7 + 3 * n)) → field w 0 8 = 0x03#8 →
    (w &&& 0xFFF0000000000000#64 ≠ 0#64 → step s = .next (raiseFault .rsvd w (s.accepted later)))
    ∧ (w &&& 0xFFF0000000000000#64 = 0#64 →
        (130 < x.toNat ∨ 130 < y.toNat ∨ wd.toNat = 0 ∨ 131 < wd.toNat ∨ h.toNat = 0 ∨ 131 < h.toNat) →
      exec (.fillrect x y wd h color) (s.accepted later) = .next (raiseFault .range w (s.accepted later))
      ∧ step s = .next (raiseFault .range w (s.accepted later)))
    ∧ (w &&& 0xFFF0000000000000#64 = 0#64 → x.toNat ≤ 130 → y.toNat ≤ 130 → 1 ≤ wd.toNat → wd.toNat ≤ 131 →
        1 ≤ h.toNat → h.toNat ≤ 131 →
      exec (.fillrect x y wd h color) (s.accepted later) = .next ((s.accepted later).setSeq (Seq.ofList ops))
      ∧ step s = .next ((s.accepted later).setSeq (Seq.ofList ops))
      ∧ run (1 + 29 * (7 + 3 * n)) s = .next ((s.accepted later).afterEvents (eventsOf ops) (29 * (7 + 3 * n))))

/-- R461, with R462 to R465: what the reference receiver is delivered by a FILLRECT, if the clock, data and chip-select lines
are outputs and chip-select was idle. It speaks of the expansion at every operand value; the block runs it only for
operands in range. -/
def Obligations.FillrectDeliversTheStream : Prop :=
  ∀ (s : Pins) (x y w h : Byte) (color : Color),
    s.dir.sck = .out → s.dir.sda = .out → s.dir.cs = .out → s.lat.cs = true →
    delivered s (eventsOf (expandFillrect x y w h color)) =
      [.frame 0x075#9, .frame (BitVec.ofNat 9 (0x100 + y.toNat)),
        .frame (BitVec.ofNat 9 (0x100 + (y.toNat + h.toNat + 1) % 256)),
        .frame 0x015#9, .frame (BitVec.ofNat 9 (0x100 + x.toNat)),
        .frame (BitVec.ofNat 9 (0x100 + (x.toNat + w.toNat - 1) % 256)),
        .frame 0x05C#9]
      ++ (List.replicate (w.toNat * h.toNat / 2)
        ((packPair color color).map fun d => Delivery.frame (BitVec.ofNat 9 (0x100 + d.toNat)))).flatten

/-- R465: the three bytes of a pixel pair, laid out as 24 wire bits, are the two colours, most significant first; in a
FILLRECT both pixels are its colour and the pattern is repeated. -/
def Obligations.PixelPairPacksTwoColours : Prop :=
  (∀ c1 c2 : Color, ∃ b1 b2 b3 : Byte,
    packPair c1 c2 = [b1, b2, b3]
    ∧ b1 ++ b2 ++ b3 = c1 ++ c2
    ∧ b1 = field c1 4 8 ∧ b2 = field c1 0 4 ++ field c2 8 4 ∧ b3 = field c2 0 8)
  ∧ (∀ (x y w h : Byte) (color : Color),
    (fillFrames x y w h color).drop 7 =
      (List.replicate (w.toNat * h.toNat / 2) ((packPair color color).map (frameWord true))).flatten)
  ∧ packPair 0xABC#12 0xABC#12 = [0xAB#8, 0xCA#8, 0xBC#8] ∧ packPair 0xFFF#12 0xFFF#12 = [0xFF#8, 0xFF#8, 0xFF#8]

/-- R467: CLEARSCR is `FILLRECT 0, 0, 131, 131, 0x000`: 25747 frames and 746663 micro-steps, after which it is complete. -/
def Obligations.ClearscrIsTheFullBlackRectangle : Prop :=
  ∀ s : State,
    exec .clearscr s = .next (s.setSeq (Seq.ofList (expandFillrect 0#8 0#8 131#8 131#8 0x000#12)))
    ∧ exec .clearscr s = exec (.fillrect 0#8 0#8 131#8 131#8 0x000#12) s
    ∧ commandWord .clearscr = 0x0000008383000003#64
    ∧ fillFrames 0#8 0#8 131#8 131#8 0x000#12 =
      [0x075#9, 0x100#9, 0x184#9, 0x015#9, 0x100#9, 0x182#9, 0x05C#9] ++ List.replicate (8580 * 3) 0x100#9
    ∧ (fillFrames 0#8 0#8 131#8 131#8 0x000#12).length = 25747
    ∧ (expandFillrect 0#8 0#8 131#8 131#8 0x000#12).length = 746663
    ∧ (s.noReset 746663 →
      run 746663 (s.setSeq (Seq.ofList (expandFillrect 0#8 0#8 131#8 131#8 0x000#12))) =
        .next (s.afterEvents (eventsOf (expandFillrect 0#8 0#8 131#8 131#8 0x000#12)) 746663))

/-! ### Pulse counter and classifier (43_pulse.md) -/

/-- R502, R503 and R504: READPULSE starts the loop, and one sample in each phase does what R502 says, whichever level it
gives; `t` is the state after the sample is taken, in which only the environment's input has moved on. -/
def Obligations.PulseSampleMovesTheLoop : Prop :=
  (∀ (s : State) (ch : Channel),
    exec (.readpulse ch) s = .next (s.setSeq (.pulse ch .p1 { hc := 0#32, lc := 0#32, ovh := false, ovl := false })))
  ∧ ∀ (s : State) (ch : Channel) (c : Counts) (b : Bool) (t : State),
    s.noReset 1 → level (.pulse ch) (s.pass 1) = (b, t) →
    (s.seq = .pulse ch .p1 c → step s = .next (t.setSeq (.pulse ch (if b then .p1 else .p2) c)))
    ∧ (s.seq = .pulse ch .p2 c → step s = .next (t.setSeq (.pulse ch (if b then .p3 else .p2) c)))
    ∧ (s.seq = .pulse ch .p3 c → b = true → ∃ hc ovh,
      step s = .next (t.setSeq (.pulse ch .p3 { c with hc := hc, ovh := ovh }))
      ∧ (c.hc.toNat = 2 ^ 32 - 1 → hc = c.hc ∧ ovh = true)
      ∧ (c.hc.toNat < 2 ^ 32 - 1 → hc.toNat = c.hc.toNat + 1 ∧ ovh = c.ovh))
    ∧ (s.seq = .pulse ch .p3 c → b = false → step s = .next (t.setSeq (.pulse ch .p4 c)))
    ∧ (s.seq = .pulse ch .p4 c → b = false → ∃ lc ovl,
      step s = .next (t.setSeq (.pulse ch .p4 { c with lc := lc, ovl := ovl }))
      ∧ (c.lc.toNat = 2 ^ 32 - 1 → lc = c.lc ∧ ovl = true)
      ∧ (c.lc.toNat < 2 ^ 32 - 1 → lc.toNat = c.lc.toNat + 1 ∧ ovl = c.ovl))
    ∧ (s.seq = .pulse ch .p4 c → b = true →
      step s = .next { t with
        seq := .idle
        ticks := { high := c.hc, low := c.lc, tovfH := c.ovh, tovfL := c.ovl } })
    ∧ t.trace = s.trace

/-- R505: READPULSE, from its word on: acceptance starts the loop at P1 with zero counts and writes nothing else. -/
def Obligations.ReadpulseStartsTheLoop : Prop :=
  ∀ (s : State) (w : Command) (later : List (Option Command)), s.Offering w later 1 → field w 0 8 = 0x04#8 →
    (w &&& 0xFFFFFFFFFFFFFE00#64 ≠ 0#64 → step s = .next (raiseFault .rsvd w (s.accepted later)))
    ∧ (w &&& 0xFFFFFFFFFFFFFE00#64 = 0#64 → ∀ ch, ch = (if w.getLsbD 8 then .pin1 else .pin0) →
      exec (.readpulse ch) (s.accepted later) =
        .next ((s.accepted later).setSeq (.pulse ch .p1 { hc := 0#32, lc := 0#32, ovh := false, ovl := false }))
      ∧ step s =
        .next ((s.accepted later).setSeq (.pulse ch .p1 { hc := 0#32, lc := 0#32, ovh := false, ovl := false })))

/-- R503, R504 and R506: READPULSE over samples that give it its edges: a run of `k` ones (it may be empty), a zero, `m` more
zeros, then a run of `a` ones and a run of `b` zeros and a one. It completes with that sample, counts `a - 1` and `b - 1`,
saturating at `2^32 - 1` with the overflow flag, and changes nothing else. -/
def Obligations.ReadpulseMeasuresTheTwoRuns : Prop :=
  ∀ (s : State) (ch : Channel) (k m a b : Nat) (rest : List Bool),
    1 ≤ a → 1 ≤ b → s.noReset (k + 1 + m + a + b + 1) →
    s.inputs.env =
      List.replicate k true ++ [false] ++ List.replicate m false ++ List.replicate a true ++ List.replicate b false
        ++ [true] ++ rest →
    ∃ t, exec (.readpulse ch) s = .next t
      ∧ run (k + 1 + m + a + b + 1) t =
        .next { s.pass (k + 1 + m + a + b + 1) with
          seq := .idle
          ticks := {
            high := BitVec.ofNat 32 (min (a - 1) (2 ^ 32 - 1))
            low := BitVec.ofNat 32 (min (b - 1) (2 ^ 32 - 1))
            tovfH := decide (2 ^ 32 - 1 < a - 1)
            tovfL := decide (2 ^ 32 - 1 < b - 1) }
          inputs := { (s.pass (k + 1 + m + a + b + 1)).inputs with env := rest } }

/-- R507 and R608: on an input that never gives the edge its phase waits for, the pulse loop stays in that phase for as long as
no reset comes: BUSY, no result written, no command taken. -/
def Obligations.ReadpulseHangsWithoutAnEdge : Prop :=
  ∀ (s : State) (ch : Channel) (ph : Phase) (c : Counts) (level : Bool) (n : Nat) (rest : List Bool),
    (ph, level) ∈ [(Phase.p1, true), (.p2, false), (.p3, true), (.p4, false)] →
    s.seq = .pulse ch ph c → s.noReset n → s.inputs.env = List.replicate n level ++ rest →
    ∃ t c', run n s = .next t
      ∧ t.seq = .pulse ch ph c'
      ∧ (t.readReg 0#4).getLsbD 0 = true
      ∧ t.ticks = s.ticks ∧ t.inputs.offers = s.inputs.offers ∧ t.pins = s.pins ∧ t.trace = s.trace

/-- R510 and R511: CLASSIFY, from its word on. -/
def Obligations.ClassifyComparesWithBothThresholds : Prop :=
  ∀ (s : State) (w : Command) (later : List (Option Command)) (value : Word32) (code : BitVec 2),
    s.Offering w later 2 → field w 0 8 = 0x05#8 → value = field w 8 32 →
    code = (if value.toNat < 7920 then 0b01#2 else if 9920 < value.toNat then 0b10#2 else 0b00#2) →
    (w &&& 0xFFFFFF0000000000#64 ≠ 0#64 → step s = .next (raiseFault .rsvd w (s.accepted later)))
    ∧ (w &&& 0xFFFFFF0000000000#64 = 0#64 →
      exec (.classify value) (s.accepted later) = .next ((s.accepted later).setSeq (.run (.setclass code) []))
      ∧ step s = .next ((s.accepted later).setSeq (.run (.setclass code) []))
      ∧ run 2 s = .next { (s.accepted later).pass 1 with seq := .idle, classCode := code })

/-! ### Faults (60_exceptions.md) -/

/-- R602, with the codes of R601: what raising a fault does, that it does nothing else, and that no step but a reset step
clears what it recorded. -/
def Obligations.RaisingAFaultRecordsIt : Prop :=
  (∀ (s : State) (w : Command) (e : FaultCause × Nat),
    e ∈ [(FaultCause.badop, 1), (.rsvd, 2), (.badpin, 3), (.range, 4)] →
    ∃ f : FaultLog, raiseFault e.1 w s = { s with faults := f }
      ∧ (s.faults.valid = false →
        f.cause = BitVec.ofNat 3 e.2 ∧ f.cmdLo = w.extractLsb' 0 32 ∧ f.cmdHi = w.extractLsb' 32 32)
      ∧ (s.faults.valid = true → f.cause = s.faults.cause ∧ f.cmdLo = s.faults.cmdLo ∧ f.cmdHi = s.faults.cmdHi)
      ∧ f.valid = true
      ∧ (∀ n, (faultInfoWord f).getLsbD (n + 4) = ((faultInfoWord s.faults).getLsbD (n + 4) || n + 4 == e.2 + 3)))
  ∧ (∀ s t : State, s.noReset 1 → step s = .next t →
    (s.faults.valid = true →
      t.faults.valid = true ∧ t.faults.cause = s.faults.cause
        ∧ t.faults.cmdLo = s.faults.cmdLo ∧ t.faults.cmdHi = s.faults.cmdHi)
    ∧ s.faults.seen &&& t.faults.seen = s.faults.seen)

/-- R602 and R110: over any number of steps without a reset the first fault is kept whole, and a SEEN bit once set stays set. -/
def Obligations.FirstFaultIsKeptUntilReset : Prop :=
  ∀ (n : Nat) (s t : State), s.noReset n → run n s = .next t →
    (s.faults.valid = true →
      t.faults.valid = true ∧ t.faults.cause = s.faults.cause
        ∧ t.faults.cmdLo = s.faults.cmdLo ∧ t.faults.cmdHi = s.faults.cmdHi)
    ∧ s.faults.seen &&& t.faults.seen = s.faults.seen

/-- R600: an instruction whose operands are legal raises no fault once it is accepted and starts to run; one whose operands
are not raises BADPIN (a pin command) or RANGE (FILLRECT) and does nothing else. -/
def Obligations.OnlyIllegalOperandsFaultInAMeaning : Prop :=
  ∀ (i : Instr) (s : State),
    (i.wf = true → ∃ q, q ≠ .idle ∧ exec i s = .next (s.setSeq q))
    ∧ (i.wf = false →
      exec i s = .next (raiseFault .badpin (commandWord i) s)
        ∧ (∃ p, i = .pinset p ∨ i = .pinclr p ∨ i = .pintest p ∨ ∃ m, i = .pindir p m)
      ∨ exec i s = .next (raiseFault .range (commandWord i) s) ∧ ∃ x y w h c, i = .fillrect x y w h c)

/-- R606: a fault stops nothing: every step, from every state, answers a next state. -/
def Obligations.EveryStepAnswersANextState : Prop :=
  ∀ s : State, ∃ t, step s = .next t

/-! ### Reset (70_reset_and_hazards.md) -/

/-- R700: a step with `rst_n = 0`, from every state: no sequencer step and no acceptance; afterwards every piece of state has
its reset value, the latches a draw of their own at each reset (nothing is said of their value). That the draw is
`Config.resetLatch` at a counter is the model's choice (log entry 1); that the values are in place at the end of each
such step, and that the host's inputs stand, is the model's inference (log entry 5). -/
def Obligations.ResetStepGivesResetValues : Prop :=
  ∀ (s : State) (later : List Bool), s.inputs.rstIn = false :: later →
    ∃ (n : Nat) (t : State), step s = .next t
      ∧ t.seq = .idle ∧ (∀ p, t.pins.dir.get p = .inp)
      ∧ t.pins.lat = Config.resetLatch n ∧ n = s.free.resets ∧ t.free.resets = n + 1
      ∧ (∀ idx ∈ [0#4, 1#4, 2#4, 3#4, 4#4, 5#4, 6#4], t.readReg idx = 0#32)
      ∧ t.pinbit = false ∧ t.trace = []
      ∧ t.inputs = { s.inputs with rstIn := later }

/-- R701: a reset while BUSY abandons the running command at once: its remaining micro-operations are never performed, a
READPULSE writes no result, the display lines go undriven, and the block is ready. That the block shows this already at the
end of the reset step, also when `rst_n` stays low, is the model's inference (log entry 5). -/
def Obligations.ResetAbandonsARunningCommand : Prop :=
  ∀ (s : State) (later : List Bool), s.seq.busy = true → s.inputs.rstIn = false :: later →
    ∃ t, step s = .next t
      ∧ t.cmdReady = true ∧ t.ticks.high = 0#32 ∧ t.ticks.low = 0#32
      ∧ (∀ p, t.pins.drive p = none)
      ∧ (∀ n u, t.noReset n → (∀ w, some w ∉ t.inputs.offers) → run n t = .next u →
        u.trace = [] ∧ u.ticks = t.ticks ∧ u.pins = t.pins)

/-! ### The end of a run (70_reset_and_hazards.md) -/

/-- R722: a run has ended when no word is left to be offered and the block is idle. From then on, without a reset, nothing
but the input ports moves and the run stays ended (the offers of `cmd_valid = 0` that may be left are log entry 4). -/
def Obligations.EndedRunStaysEnded : Prop :=
  (∀ s : State, s.ended = true ↔ (s.readReg 0#4).getLsbD 0 = false ∧ ∀ w, some w ∉ s.inputs.offers)
  ∧ ∀ (n : Nat) (s : State), s.ended = true → s.noReset n →
    ∃ t, run n s = .next t
      ∧ t = { s.pass n with inputs := { (s.pass n).inputs with offers := s.inputs.offers.drop n } }
      ∧ t.ended = true

/-! ### Whole-machine invariant -/

/-- The invariant holds at reset, whatever the latch draw is. -/
def Obligations.InvariantHoldsAtReset : Prop := State.reset.Inv

/-- Every step keeps the invariant: class code and fault cause stay legal (R109, R112), the overflow flags mean saturation
(R503), the working counts fit their phase (R502), the fault record is whole (R602), and the pins are at every moment what
the trace of events since the last reset says (R104, R105, R203). The latch draw of that reset and its counter are the
model's form (log entry 1), and so is the trace in State (log entry 10); that a reset step leaves reset values at its end is
its inference (log entry 5). -/
def Obligations.EveryStepKeepsTheInvariant : Prop :=
  ∀ s t : State, s.Inv → step s = .next t → t.Inv
end

