-- ==== Sys2Proof/Laws/Decode.lean ====
section
/-! SUPPORT. Fields and placed fields: a field read where it was placed is itself, a field read elsewhere is 0, and a
placed field misses a mask that is 0 where it stands. The words of the encoder are read with these. -/

namespace Sys2Proof

theorem place_getLsbD {len : Nat} (lo : Nat) (v : BitVec len) (i : Nat) :
    (place lo v).getLsbD i = (decide (i < 64) && !decide (i < lo) && v.getLsbD (i - lo)) := by
  simp only [place, BitVec.getLsbD_shiftLeft, BitVec.getLsbD_setWidth]
  by_cases h : i < 64
  · have h1 : i - lo < 64 := by omega
    simp [h, h1]
  · simp [h]

theorem field_getLsbD {n : Nat} (w : BitVec n) (lo len i : Nat) :
    (field w lo len).getLsbD i = (decide (i < len) && w.getLsbD (lo + i)) := by
  simp [field, BitVec.getLsbD_extractLsb']

theorem field_or {n : Nat} (a b : BitVec n) (lo len : Nat) :
    field (a ||| b) lo len = field a lo len ||| field b lo len := by
  ext i hi
  simp [field]

/-- A field read where it was placed. -/
theorem field_place_same {len : Nat} (lo : Nat) (v : BitVec len) (h : lo + len ≤ 64) : field (place lo v) lo len = v := by
  refine BitVec.eq_of_getLsbD_eq fun i hi => ?_
  rw [field_getLsbD, place_getLsbD]
  have h1 : lo + i < 64 := by omega
  simp [hi, h1]

/-- A field read beside where another was placed. -/
theorem field_place_other {len : Nat} (lo : Nat) (v : BitVec len) (lo' len' : Nat) (h : lo' + len' ≤ lo ∨ lo + len ≤ lo') :
    field (place lo v) lo' len' = 0#len' := by
  refine BitVec.eq_of_getLsbD_eq fun i hi => ?_
  rw [field_getLsbD, place_getLsbD]
  rcases h with h | h
  · have h1 : lo' + i < lo := by omega
    simp [h1]
  · have h1 : len ≤ lo' + i - lo := by omega
    simp [BitVec.getLsbD_of_ge _ _ h1]

/-- A placed field has no bit in a mask that is 0 where the field stands. -/
theorem place_and_mask {len : Nat} (lo : Nat) (v : BitVec len) (m : Command) (h : field m lo len = 0#len) :
    place lo v &&& m = 0#64 := by
  refine BitVec.eq_of_getLsbD_eq fun i hi => ?_
  rw [BitVec.getLsbD_and, place_getLsbD]
  by_cases h1 : i < lo
  · simp [h1]
  · by_cases h2 : i - lo < len
    · have h3 : (field m lo len).getLsbD (i - lo) = false := by rw [h]; simp
      rw [field_getLsbD, show lo + (i - lo) = i by omega] at h3
      simp [h2] at h3
      simp [h3]
    · simp [BitVec.getLsbD_of_ge v (i - lo) (by omega)]

/-- A single bit read where it was placed. -/
theorem place_bit_same (lo : Nat) (b : Bool) (h : lo < 64) : (place lo (BitVec.ofBool b)).getLsbD lo = b := by
  rw [place_getLsbD]
  cases b <;> simp [h]

/-- A bit read beside where a field was placed. -/
theorem place_bit_other {len : Nat} (lo : Nat) (v : BitVec len) (i : Nat) (h : i < lo ∨ lo + len ≤ i) :
    (place lo v).getLsbD i = false := by
  rw [place_getLsbD]
  rcases h with h | h
  · simp [h]
  · simp [BitVec.getLsbD_of_ge v (i - lo) (by omega)]

/-- The opcode map and the codes agree (R301, R303). -/
@[simp] theorem Op.ofByte_code (op : Op) : Op.ofByte op.code = some op := by
  cases op <;> rfl

theorem Op.ofByte_eq_some {b : Byte} {op : Op} (h : Op.ofByte b = some op) : b = op.code := by
  unfold Op.ofByte at h
  split at h <;> first | (cases h; rfl) | cases h

@[simp] theorem channelOf_channelBit (ch : Channel) : channelOf (channelBit ch) = ch := by
  cases ch <;> rfl

@[simp] theorem channelBit_channelOf (b : Bool) : channelBit (channelOf b) = b := by
  cases b <;> rfl

@[simp] theorem modeOf_modeBit (m : PinMode) : modeOf (modeBit m) = m := by
  cases m <;> rfl

@[simp] theorem modeBit_modeOf (b : Bool) : modeBit (modeOf b) = b := by
  cases b <;> rfl

/-- A word that decodes has its opcode in the map and no reserved bit set (R310). -/
theorem decodeCommand_instr {w : Command} {i : Instr} (h : decodeCommand w = .instr i) :
    ∃ op : Op, opOf w = op.code ∧ w &&& op.rsvd = 0#64 ∧ i = op.read w := by
  unfold decodeCommand at h
  split at h
  · cases h
  · next op ho =>
    split at h
    · next hr =>
      cases h
      exact ⟨op, Op.ofByte_eq_some ho, hr, rfl⟩
    · cases h

/-- A word with an opcode of the map and no reserved bit set decodes to its fields (R310). -/
theorem decodeCommand_of {w : Command} {op : Op} (ho : opOf w = op.code) (hr : w &&& op.rsvd = 0#64) :
    decodeCommand w = .instr (op.read w) := by
  simp [decodeCommand, ho, hr]

end Sys2Proof
end

