-- ==== Sys2Proof/Laws/State.lean ====
section
/-! SUPPORT. One lemma per field per update of the state, true by definition, so that no later proof unfolds a record
update; and reading back an entry of a `PerPin`. -/

namespace Sys2Proof

@[simp] theorem PerPin.get_set_same {α : Type} (v : PerPin α) (p : OutPin) (a : α) : (v.set p a).get p = a := by
  cases p <;> rfl

theorem PerPin.get_set_other {α : Type} (v : PerPin α) (p q : OutPin) (a : α) (h : q ≠ p) :
    (v.set p a).get q = v.get q := by
  cases p <;> cases q <;> first | rfl | exact absurd rfl h

@[simp] theorem PerPin.get_all {α : Type} (a : α) (p : OutPin) : (PerPin.all a).get p = a := by
  cases p <;> rfl

theorem PerPin.ext_get {α : Type} {v w : PerPin α} (h : ∀ p, v.get p = w.get p) : v = w := by
  have h1 := h .sck
  have h2 := h .sda
  have h3 := h .cs
  have h4 := h .rst
  cases v
  cases w
  simp only [PerPin.get] at h1 h2 h3 h4
  rw [h1, h2, h3, h4]

namespace Machine

/-! `State.setSeq` -/

@[simp] theorem State.setSeq_seq (s : State) (q : Seq) : (s.setSeq q).seq = q := rfl
@[simp] theorem State.setSeq_pins (s : State) (q : Seq) : (s.setSeq q).pins = s.pins := rfl
@[simp] theorem State.setSeq_faults (s : State) (q : Seq) : (s.setSeq q).faults = s.faults := rfl
@[simp] theorem State.setSeq_ticks (s : State) (q : Seq) : (s.setSeq q).ticks = s.ticks := rfl
@[simp] theorem State.setSeq_classCode (s : State) (q : Seq) : (s.setSeq q).classCode = s.classCode := rfl
@[simp] theorem State.setSeq_pinbit (s : State) (q : Seq) : (s.setSeq q).pinbit = s.pinbit := rfl
@[simp] theorem State.setSeq_trace (s : State) (q : Seq) : (s.setSeq q).trace = s.trace := rfl
@[simp] theorem State.setSeq_inputs (s : State) (q : Seq) : (s.setSeq q).inputs = s.inputs := rfl
@[simp] theorem State.setSeq_free (s : State) (q : Seq) : (s.setSeq q).free = s.free := rfl

/-! `State.setLat` -/

@[simp] theorem State.setLat_seq (s : State) (p : OutPin) (v : Bool) : (s.setLat p v).seq = s.seq := rfl
@[simp] theorem State.setLat_pins (s : State) (p : OutPin) (v : Bool) : (s.setLat p v).pins = { s.pins with lat := s.pins.lat.set p v } := rfl
@[simp] theorem State.setLat_faults (s : State) (p : OutPin) (v : Bool) : (s.setLat p v).faults = s.faults := rfl
@[simp] theorem State.setLat_ticks (s : State) (p : OutPin) (v : Bool) : (s.setLat p v).ticks = s.ticks := rfl
@[simp] theorem State.setLat_classCode (s : State) (p : OutPin) (v : Bool) : (s.setLat p v).classCode = s.classCode := rfl
@[simp] theorem State.setLat_pinbit (s : State) (p : OutPin) (v : Bool) : (s.setLat p v).pinbit = s.pinbit := rfl
@[simp] theorem State.setLat_trace (s : State) (p : OutPin) (v : Bool) : (s.setLat p v).trace = s.trace := rfl
@[simp] theorem State.setLat_inputs (s : State) (p : OutPin) (v : Bool) : (s.setLat p v).inputs = s.inputs := rfl
@[simp] theorem State.setLat_free (s : State) (p : OutPin) (v : Bool) : (s.setLat p v).free = s.free := rfl

/-! `State.setDir` -/

@[simp] theorem State.setDir_seq (s : State) (p : OutPin) (m : PinMode) : (s.setDir p m).seq = s.seq := rfl
@[simp] theorem State.setDir_pins (s : State) (p : OutPin) (m : PinMode) : (s.setDir p m).pins = { s.pins with dir := s.pins.dir.set p m } := rfl
@[simp] theorem State.setDir_faults (s : State) (p : OutPin) (m : PinMode) : (s.setDir p m).faults = s.faults := rfl
@[simp] theorem State.setDir_ticks (s : State) (p : OutPin) (m : PinMode) : (s.setDir p m).ticks = s.ticks := rfl
@[simp] theorem State.setDir_classCode (s : State) (p : OutPin) (m : PinMode) : (s.setDir p m).classCode = s.classCode := rfl
@[simp] theorem State.setDir_pinbit (s : State) (p : OutPin) (m : PinMode) : (s.setDir p m).pinbit = s.pinbit := rfl
@[simp] theorem State.setDir_trace (s : State) (p : OutPin) (m : PinMode) : (s.setDir p m).trace = s.trace := rfl
@[simp] theorem State.setDir_inputs (s : State) (p : OutPin) (m : PinMode) : (s.setDir p m).inputs = s.inputs := rfl
@[simp] theorem State.setDir_free (s : State) (p : OutPin) (m : PinMode) : (s.setDir p m).free = s.free := rfl

/-! `State.record` -/

@[simp] theorem State.record_seq (s : State) (e : Event) : (s.record e).seq = s.seq := rfl
@[simp] theorem State.record_pins (s : State) (e : Event) : (s.record e).pins = s.pins := rfl
@[simp] theorem State.record_faults (s : State) (e : Event) : (s.record e).faults = s.faults := rfl
@[simp] theorem State.record_ticks (s : State) (e : Event) : (s.record e).ticks = s.ticks := rfl
@[simp] theorem State.record_classCode (s : State) (e : Event) : (s.record e).classCode = s.classCode := rfl
@[simp] theorem State.record_pinbit (s : State) (e : Event) : (s.record e).pinbit = s.pinbit := rfl
@[simp] theorem State.record_trace (s : State) (e : Event) : (s.record e).trace = s.trace ++ [e] := rfl
@[simp] theorem State.record_inputs (s : State) (e : Event) : (s.record e).inputs = s.inputs := rfl
@[simp] theorem State.record_free (s : State) (e : Event) : (s.record e).free = s.free := rfl

/-! `State.setPinbit` -/

@[simp] theorem State.setPinbit_seq (s : State) (b : Bool) : (s.setPinbit b).seq = s.seq := rfl
@[simp] theorem State.setPinbit_pins (s : State) (b : Bool) : (s.setPinbit b).pins = s.pins := rfl
@[simp] theorem State.setPinbit_faults (s : State) (b : Bool) : (s.setPinbit b).faults = s.faults := rfl
@[simp] theorem State.setPinbit_ticks (s : State) (b : Bool) : (s.setPinbit b).ticks = s.ticks := rfl
@[simp] theorem State.setPinbit_classCode (s : State) (b : Bool) : (s.setPinbit b).classCode = s.classCode := rfl
@[simp] theorem State.setPinbit_pinbit (s : State) (b : Bool) : (s.setPinbit b).pinbit = b := rfl
@[simp] theorem State.setPinbit_trace (s : State) (b : Bool) : (s.setPinbit b).trace = s.trace := rfl
@[simp] theorem State.setPinbit_inputs (s : State) (b : Bool) : (s.setPinbit b).inputs = s.inputs := rfl
@[simp] theorem State.setPinbit_free (s : State) (b : Bool) : (s.setPinbit b).free = s.free := rfl

/-! `State.setClass` -/

@[simp] theorem State.setClass_seq (s : State) (c : BitVec 2) : (s.setClass c).seq = s.seq := rfl
@[simp] theorem State.setClass_pins (s : State) (c : BitVec 2) : (s.setClass c).pins = s.pins := rfl
@[simp] theorem State.setClass_faults (s : State) (c : BitVec 2) : (s.setClass c).faults = s.faults := rfl
@[simp] theorem State.setClass_ticks (s : State) (c : BitVec 2) : (s.setClass c).ticks = s.ticks := rfl
@[simp] theorem State.setClass_classCode (s : State) (c : BitVec 2) : (s.setClass c).classCode = c := rfl
@[simp] theorem State.setClass_pinbit (s : State) (c : BitVec 2) : (s.setClass c).pinbit = s.pinbit := rfl
@[simp] theorem State.setClass_trace (s : State) (c : BitVec 2) : (s.setClass c).trace = s.trace := rfl
@[simp] theorem State.setClass_inputs (s : State) (c : BitVec 2) : (s.setClass c).inputs = s.inputs := rfl
@[simp] theorem State.setClass_free (s : State) (c : BitVec 2) : (s.setClass c).free = s.free := rfl

/-! `State.setTicks` -/

@[simp] theorem State.setTicks_seq (s : State) (c : Counts) : (s.setTicks c).seq = s.seq := rfl
@[simp] theorem State.setTicks_pins (s : State) (c : Counts) : (s.setTicks c).pins = s.pins := rfl
@[simp] theorem State.setTicks_faults (s : State) (c : Counts) : (s.setTicks c).faults = s.faults := rfl
@[simp] theorem State.setTicks_ticks (s : State) (c : Counts) : (s.setTicks c).ticks = { high := c.hc, low := c.lc, tovfH := c.ovh, tovfL := c.ovl } := rfl
@[simp] theorem State.setTicks_classCode (s : State) (c : Counts) : (s.setTicks c).classCode = s.classCode := rfl
@[simp] theorem State.setTicks_pinbit (s : State) (c : Counts) : (s.setTicks c).pinbit = s.pinbit := rfl
@[simp] theorem State.setTicks_trace (s : State) (c : Counts) : (s.setTicks c).trace = s.trace := rfl
@[simp] theorem State.setTicks_inputs (s : State) (c : Counts) : (s.setTicks c).inputs = s.inputs := rfl
@[simp] theorem State.setTicks_free (s : State) (c : Counts) : (s.setTicks c).free = s.free := rfl

/-! `State.tick` -/

@[simp] theorem State.tick_seq (s : State) : (s.tick).seq = s.seq := rfl
@[simp] theorem State.tick_pins (s : State) : (s.tick).pins = s.pins := rfl
@[simp] theorem State.tick_faults (s : State) : (s.tick).faults = s.faults := rfl
@[simp] theorem State.tick_ticks (s : State) : (s.tick).ticks = s.ticks := rfl
@[simp] theorem State.tick_classCode (s : State) : (s.tick).classCode = s.classCode := rfl
@[simp] theorem State.tick_pinbit (s : State) : (s.tick).pinbit = s.pinbit := rfl
@[simp] theorem State.tick_trace (s : State) : (s.tick).trace = s.trace := rfl
@[simp] theorem State.tick_inputs (s : State) : (s.tick).inputs = { s.inputs with rstIn := s.inputs.rstIn.tail } := rfl
@[simp] theorem State.tick_free (s : State) : (s.tick).free = s.free := rfl

/-! `State.takeOffer` -/

@[simp] theorem State.takeOffer_seq (s : State) : (s.takeOffer).seq = s.seq := rfl
@[simp] theorem State.takeOffer_pins (s : State) : (s.takeOffer).pins = s.pins := rfl
@[simp] theorem State.takeOffer_faults (s : State) : (s.takeOffer).faults = s.faults := rfl
@[simp] theorem State.takeOffer_ticks (s : State) : (s.takeOffer).ticks = s.ticks := rfl
@[simp] theorem State.takeOffer_classCode (s : State) : (s.takeOffer).classCode = s.classCode := rfl
@[simp] theorem State.takeOffer_pinbit (s : State) : (s.takeOffer).pinbit = s.pinbit := rfl
@[simp] theorem State.takeOffer_trace (s : State) : (s.takeOffer).trace = s.trace := rfl
@[simp] theorem State.takeOffer_inputs (s : State) : (s.takeOffer).inputs = { s.inputs with offers := s.inputs.offers.tail } := rfl
@[simp] theorem State.takeOffer_free (s : State) : (s.takeOffer).free = s.free := rfl

/-! `State.releaseRst` -/

@[simp] theorem State.releaseRst_seq (s : State) : (s.releaseRst).seq = s.seq := rfl
@[simp] theorem State.releaseRst_pins (s : State) : (s.releaseRst).pins = s.pins := rfl
@[simp] theorem State.releaseRst_faults (s : State) : (s.releaseRst).faults = s.faults := rfl
@[simp] theorem State.releaseRst_ticks (s : State) : (s.releaseRst).ticks = s.ticks := rfl
@[simp] theorem State.releaseRst_classCode (s : State) : (s.releaseRst).classCode = s.classCode := rfl
@[simp] theorem State.releaseRst_pinbit (s : State) : (s.releaseRst).pinbit = s.pinbit := rfl
@[simp] theorem State.releaseRst_trace (s : State) : (s.releaseRst).trace = s.trace := rfl
@[simp] theorem State.releaseRst_inputs (s : State) : (s.releaseRst).inputs = { s.inputs with rstIn := if s.rstN then s.inputs.rstIn else true :: s.inputs.rstIn } := rfl
@[simp] theorem State.releaseRst_free (s : State) : (s.releaseRst).free = s.free := rfl

/-! `State.offerNext` -/

@[simp] theorem State.offerNext_seq (s : State) (w : Command) : (s.offerNext w).seq = .idle := rfl
@[simp] theorem State.offerNext_pins (s : State) (w : Command) : (s.offerNext w).pins = s.pins := rfl
@[simp] theorem State.offerNext_faults (s : State) (w : Command) : (s.offerNext w).faults = s.faults := rfl
@[simp] theorem State.offerNext_ticks (s : State) (w : Command) : (s.offerNext w).ticks = s.ticks := rfl
@[simp] theorem State.offerNext_classCode (s : State) (w : Command) : (s.offerNext w).classCode = s.classCode := rfl
@[simp] theorem State.offerNext_pinbit (s : State) (w : Command) : (s.offerNext w).pinbit = s.pinbit := rfl
@[simp] theorem State.offerNext_trace (s : State) (w : Command) : (s.offerNext w).trace = s.trace := rfl
@[simp] theorem State.offerNext_inputs (s : State) (w : Command) : (s.offerNext w).inputs = { s.inputs with offers := some w :: s.inputs.offers } := rfl
@[simp] theorem State.offerNext_free (s : State) (w : Command) : (s.offerNext w).free = s.free := rfl

/-! `raiseFault` (R602: only the fault record changes) -/

@[simp] theorem raiseFault_seq (c : FaultCause) (w : Command) (s : State) : (raiseFault c w s).seq = s.seq := rfl
@[simp] theorem raiseFault_pins (c : FaultCause) (w : Command) (s : State) : (raiseFault c w s).pins = s.pins := rfl
@[simp] theorem raiseFault_faults (c : FaultCause) (w : Command) (s : State) : (raiseFault c w s).faults = s.faults.add c w := rfl
@[simp] theorem raiseFault_ticks (c : FaultCause) (w : Command) (s : State) : (raiseFault c w s).ticks = s.ticks := rfl
@[simp] theorem raiseFault_classCode (c : FaultCause) (w : Command) (s : State) : (raiseFault c w s).classCode = s.classCode := rfl
@[simp] theorem raiseFault_pinbit (c : FaultCause) (w : Command) (s : State) : (raiseFault c w s).pinbit = s.pinbit := rfl
@[simp] theorem raiseFault_trace (c : FaultCause) (w : Command) (s : State) : (raiseFault c w s).trace = s.trace := rfl
@[simp] theorem raiseFault_inputs (c : FaultCause) (w : Command) (s : State) : (raiseFault c w s).inputs = s.inputs := rfl
@[simp] theorem raiseFault_free (c : FaultCause) (w : Command) (s : State) : (raiseFault c w s).free = s.free := rfl

/-! `State.pass` -/

@[simp] theorem State.pass_seq (s : State) (n : Nat) : (s.pass n).seq = s.seq := rfl
@[simp] theorem State.pass_pins (s : State) (n : Nat) : (s.pass n).pins = s.pins := rfl
@[simp] theorem State.pass_faults (s : State) (n : Nat) : (s.pass n).faults = s.faults := rfl
@[simp] theorem State.pass_ticks (s : State) (n : Nat) : (s.pass n).ticks = s.ticks := rfl
@[simp] theorem State.pass_classCode (s : State) (n : Nat) : (s.pass n).classCode = s.classCode := rfl
@[simp] theorem State.pass_pinbit (s : State) (n : Nat) : (s.pass n).pinbit = s.pinbit := rfl
@[simp] theorem State.pass_trace (s : State) (n : Nat) : (s.pass n).trace = s.trace := rfl
@[simp] theorem State.pass_inputs (s : State) (n : Nat) : (s.pass n).inputs = { s.inputs with rstIn := s.inputs.rstIn.drop n } := rfl
@[simp] theorem State.pass_free (s : State) (n : Nat) : (s.pass n).free = s.free := rfl

@[simp] theorem State.pass_zero (s : State) : s.pass 0 = s := rfl

theorem State.tick_eq_pass (s : State) : s.tick = s.pass 1 := by
  simp [State.tick, State.pass]

theorem State.pass_pass (s : State) (m n : Nat) : (s.pass m).pass n = s.pass (m + n) := by
  simp [State.pass, List.drop_drop]

end Machine

end Sys2Proof
end

