-- ==== Sys2Proof/Laws/Ops.lean ====
section
/-! SUPPORT. For each shared operation, what it can do, said once: pin levels, micro-operations, faults, and what a step
is. Later proofs cite these instead of unfolding the operation. -/

namespace Sys2Proof.Machine

/-! ### Pin levels (R106) -/

theorem Pins.drive_out {s : Pins} {p : OutPin} (h : s.dir.get p = .out) : s.drive p = some (s.lat.get p) := by
  simp [Pins.drive, h]

theorem Pins.drive_inp {s : Pins} {p : OutPin} (h : s.dir.get p = .inp) : s.drive p = none := by
  simp [Pins.drive, h]

/-- `STATUS.BUSY` (R108, R115). -/
theorem statusWord_busy (busy tovfH tovfL valid : Bool) : (statusWord busy tovfH tovfL valid).getLsbD 0 = busy := by
  revert busy tovfH tovfL valid
  decide

@[simp] theorem readReg_status (s : State) :
    s.readReg 0#4 = statusWord s.seq.busy s.ticks.tovfH s.ticks.tovfL s.faults.valid := rfl

@[simp] theorem readReg_high (s : State) : s.readReg 4#4 = s.ticks.high := BitVec.setWidth_eq _

@[simp] theorem readReg_low (s : State) : s.readReg 5#4 = s.ticks.low := BitVec.setWidth_eq _

@[simp] theorem anyPin_pinIndex (p : Pin) : anyPin (pinIndex p) = some p := by
  cases p with
  | out q => cases q <;> rfl
  | pulse ch => cases ch <;> rfl

theorem anyPin_reserved {p : PinIndex} (h : 6 ≤ p.toNat) : anyPin p = none := by
  revert h
  revert p
  decide

/-- R503: a count below the greatest one is one more, the greatest stays and sets its flag. -/
theorem incSat_below {c : TickCount} (ov : Bool) (h : c ≠ maxTicks) : incSat c ov = (c + 1#Config.tickWidth, ov) := if_neg h

theorem incSat_full (ov : Bool) : incSat maxTicks ov = (maxTicks, true) := if_pos rfl

theorem drawEnv_supplied {s : State} {b : Bool} {rest : List Bool} (p : Pin) (h : s.inputs.env = b :: rest) :
    drawEnv p s = (b, { s with inputs := { s.inputs with env := rest } }) := by
  simp [drawEnv, h]

theorem drawEnv_free {s : State} (p : Pin) (h : s.inputs.env = []) :
    drawEnv p s = (Config.envDraw s.free.draws p, { s with free := { s.free with draws := s.free.draws + 1 } }) := by
  simp [drawEnv, h]

/-- A draw changes at most the environment's supply and the number of free draws. -/
theorem drawEnv_frame (p : Pin) (s : State) :
    ∃ env draws, (drawEnv p s).2
      = { s with inputs := { s.inputs with env := env }, free := { s.free with draws := draws } } := by
  cases h : s.inputs.env with
  | nil => exact ⟨s.inputs.env, s.free.draws + 1, by rw [drawEnv_free p h]⟩
  | cons b rest => exact ⟨rest, s.free.draws, by rw [drawEnv_supplied p h]⟩

/-- Reading a level changes at most the environment's supply and the number of free draws (R208). -/
theorem level_frame (p : Pin) (s : State) :
    ∃ env draws, (level p s).2
      = { s with inputs := { s.inputs with env := env }, free := { s.free with draws := draws } } := by
  cases p with
  | pulse ch => exact drawEnv_frame _ s
  | out q =>
    simp only [level]
    cases s.pins.drive q with
    | none => exact drawEnv_frame _ s
    | some b => exact ⟨s.inputs.env, s.free.draws, rfl⟩

/-! ### Micro-operations (R203) -/

/-- What a micro-operation leaves as it is, whatever it does (R203). -/
theorem perform_keeps (op : MicroOp) (s : State) :
    (perform op s).seq = s.seq ∧ (perform op s).faults = s.faults ∧ (perform op s).ticks = s.ticks
      ∧ (perform op s).inputs.rstIn = s.inputs.rstIn ∧ (perform op s).inputs.offers = s.inputs.offers
      ∧ (perform op s).inputs.rdIdx = s.inputs.rdIdx ∧ (perform op s).free.resets = s.free.resets := by
  cases op with
  | tst p =>
    obtain ⟨env, draws, h⟩ := level_frame p s
    simp [perform, h]
  | wr p v => simp [perform]
  | dirw p m => simp [perform]
  | dly n => simp [perform]
  | setclass c => simp [perform]

/-- What a micro-operation does to the pins and the trace is the event it records, if it records one (R203). -/
theorem perform_event (op : MicroOp) (s : State) :
    (perform op s).pins = s.pins.replay op.event.toList ∧ (perform op s).trace = s.trace ++ op.event.toList := by
  cases op with
  | tst p =>
    obtain ⟨env, draws, h⟩ := level_frame p s
    simp [perform, h, MicroOp.event, Pins.replay]
  | wr p v => simp [perform, MicroOp.event, Pins.replay, Pins.after]
  | dirw p m => simp [perform, MicroOp.event, Pins.replay, Pins.after]
  | dly n => simp [perform, MicroOp.event, Pins.replay, Pins.after]
  | setclass c => simp [perform, MicroOp.event, Pins.replay]

/-- Only a `SETCLASS` writes the class code (R112). -/
theorem perform_classCode (op : MicroOp) (s : State) (h : ∀ c, op ≠ .setclass c) :
    (perform op s).classCode = s.classCode := by
  cases op with
  | tst p =>
    obtain ⟨env, draws, h⟩ := level_frame p s
    simp [perform, h]
  | wr p v => rfl
  | dirw p m => rfl
  | dly n => rfl
  | setclass c => exact absurd rfl (h c)

/-! ### Faults (R602) -/

theorem FaultLog.add_first {f : FaultLog} (c : FaultCause) (w : Command) (h : f.valid = false) :
    f.add c w = { valid := true, cause := causeCode c, seen := f.seen ||| seenBit c,
                  cmdLo := field w 0 32, cmdHi := field w 32 32 } := by
  simp [FaultLog.add, h]

theorem FaultLog.add_later {f : FaultLog} (c : FaultCause) (w : Command) (h : f.valid = true) :
    f.add c w = { f with seen := f.seen ||| seenBit c } := by
  simp [FaultLog.add, h]

@[simp] theorem FaultLog.add_valid (f : FaultLog) (c : FaultCause) (w : Command) : (f.add c w).valid = true := by
  cases h : f.valid
  · rw [FaultLog.add_first c w h]
  · rw [FaultLog.add_later c w h, h]

/-! ### What a step is (R202, R700) -/

theorem activity_reset {s : State} (h : s.rstN = false) : s.activity = .reset := by
  simp [State.activity, h]

theorem activity_nothing {s : State} (h : s.rstN = true) (hq : s.seq = .idle) (ho : ∀ w r, s.inputs.offers ≠ some w :: r) :
    s.activity = .nothing := by
  unfold State.activity
  rw [if_pos h, hq]
  match hof : s.inputs.offers with
  | [] => rfl
  | none :: r => rfl
  | some w :: r => exact absurd hof (ho w r)

theorem activity_accept {s : State} {w : Command} {later : List (Option Command)} (h : s.rstN = true) (hq : s.seq = .idle)
    (ho : s.inputs.offers = some w :: later) : s.activity = .accept w := by
  simp [State.activity, h, hq, ho]

theorem activity_micro {s : State} {op : MicroOp} {rest : List MicroOp} (h : s.rstN = true) (hq : s.seq = .run op rest) :
    s.activity = .micro op rest := by
  simp [State.activity, h, hq]

theorem activity_sample {s : State} {ch : Channel} {ph : Phase} {c : Counts} (h : s.rstN = true)
    (hq : s.seq = .pulse ch ph c) : s.activity = .sample ch ph c := by
  simp [State.activity, h, hq]

/-- The activity tells the state apart: what holds of the state when the coming step does each thing. -/
theorem activity_cases (s : State) :
    (s.activity = .reset ∧ s.rstN = false)
      ∨ (s.activity = .nothing ∧ s.rstN = true ∧ s.seq = .idle ∧ ∀ w r, s.inputs.offers ≠ some w :: r)
      ∨ (∃ w later, s.activity = .accept w ∧ s.rstN = true ∧ s.seq = .idle ∧ s.inputs.offers = some w :: later)
      ∨ (∃ op rest, s.activity = .micro op rest ∧ s.rstN = true ∧ s.seq = .run op rest)
      ∨ (∃ ch ph c, s.activity = .sample ch ph c ∧ s.rstN = true ∧ s.seq = .pulse ch ph c) := by
  cases hr : s.rstN with
  | false => exact .inl ⟨activity_reset hr, rfl⟩
  | true =>
    match hq : s.seq with
    | .run op rest => exact .inr (.inr (.inr (.inl ⟨op, rest, activity_micro hr hq, rfl, rfl⟩)))
    | .pulse ch ph c => exact .inr (.inr (.inr (.inr ⟨ch, ph, c, activity_sample hr hq, rfl, rfl⟩)))
    | .idle =>
      by_cases ho : ∃ w later, s.inputs.offers = some w :: later
      · obtain ⟨w, later, ho⟩ := ho
        exact .inr (.inr (.inl ⟨w, later, activity_accept hr hq ho, rfl, rfl, ho⟩))
      · have ho' : ∀ w r, s.inputs.offers ≠ some w :: r := fun w r e => ho ⟨w, r, e⟩
        exact .inr (.inl ⟨activity_nothing hr hq ho', rfl, rfl, ho'⟩)

theorem acceptState_eq {s : State} {w : Command} {later : List (Option Command)} (ho : s.inputs.offers = some w :: later) :
    acceptState s = s.accepted later := by
  simp [acceptState, State.tick, State.takeOffer, State.accepted, ho]

end Sys2Proof.Machine
end

