-- ==== Sys2Proof/Laws/Meaning.lean ====
section
/-! SUPPORT. What a meaning can do, said once for all of them: start the command's sequencer position, or raise a fault
on an illegal operand. Later proofs cite these instead of unfolding twenty-six meanings. -/

namespace Sys2Proof.Machine

/-- The sequencer position an instruction's acceptance starts, or the fault of its operands (R202, R310). -/
inductive Acceptance where
  | starts (q : Seq)
  | faults (c : FaultCause)

/-- A list of micro-operations as an acceptance. -/
def Acceptance.ops (q : List MicroOp) : Acceptance := .starts (Seq.ofList q)

/-- What an acceptance leaves of a state. -/
def Acceptance.result (a : Acceptance) (i : Instr) (s : State) : State :=
  match a with
  | .starts q => s.setSeq q
  | .faults c => raiseFault c (commandWord i) s

/-- Every meaning answers a next state, and it is one of these two kinds: only `SEQ`, or only the fault record, changes. -/
theorem exec_answers (i : Instr) (s : State) : ∃ a : Acceptance, exec i s = .next (a.result i s) := by
  cases i with
  | txframe dc payload => exact ⟨.ops _, rfl⟩
  | initdisp => exact ⟨.ops _, rfl⟩
  | fillrect x y w h color =>
    cases hr : rectInRange x y w h with
    | true => exact ⟨.ops (expandFillrect x y w h color), by simp [exec, execFillrect, hr]; rfl⟩
    | false => exact ⟨.faults .range, by simp [exec, execFillrect, hr]; rfl⟩
  | readpulse ch => exact ⟨.starts _, rfl⟩
  | classify value => exact ⟨.ops _, rfl⟩
  | pinset pin =>
    cases hp : outPin pin with
    | some p => exact ⟨.ops [.wr p true], by simp [exec, execPinset, hp]; rfl⟩
    | none => exact ⟨.faults .badpin, by simp [exec, execPinset, hp]; rfl⟩
  | pinclr pin =>
    cases hp : outPin pin with
    | some p => exact ⟨.ops [.wr p false], by simp [exec, execPinclr, hp]; rfl⟩
    | none => exact ⟨.faults .badpin, by simp [exec, execPinclr, hp]; rfl⟩
  | pintest pin =>
    cases hp : anyPin pin with
    | some p => exact ⟨.ops [.tst p], by simp [exec, execPintest, hp]; rfl⟩
    | none => exact ⟨.faults .badpin, by simp [exec, execPintest, hp]; rfl⟩
  | pindir pin mode =>
    cases hp : outPin pin with
    | some p => exact ⟨.ops [.dirw p mode], by simp [exec, execPindir, hp]; rfl⟩
    | none => exact ⟨.faults .badpin, by simp [exec, execPindir, hp]; rfl⟩
  | sendcmd b => exact ⟨.ops _, rfl⟩
  | senddata b => exact ⟨.ops _, rfl⟩
  | clearscr => exact ⟨.ops _, rfl⟩
  | wireDisctl => exact ⟨.ops _, rfl⟩
  | wireComscn => exact ⟨.ops _, rfl⟩
  | wireOscon => exact ⟨.ops _, rfl⟩
  | wireSlpout => exact ⟨.ops _, rfl⟩
  | wireVolctr => exact ⟨.ops _, rfl⟩
  | wirePwrctr => exact ⟨.ops _, rfl⟩
  | wireDisinv => exact ⟨.ops _, rfl⟩
  | wireDatctl => exact ⟨.ops _, rfl⟩
  | wireNop => exact ⟨.ops _, rfl⟩
  | wireDison => exact ⟨.ops _, rfl⟩
  | wirePaset => exact ⟨.ops _, rfl⟩
  | wireCaset => exact ⟨.ops _, rfl⟩
  | wireRamwr => exact ⟨.ops _, rfl⟩
  | wireData b => exact ⟨.ops _, rfl⟩

end Sys2Proof.Machine
end

