-- ==== Sys2Proof/Laws/PerInstr.lean ====
section
/-! SUPPORT. The family `ReservedClear`: the command word of an instruction has the opcode of one of the nine commands and
0 in every reserved bit of that command (R301, R304, R310), whatever its operands are. -/

namespace Sys2Proof.Laws

/-- The command word of `i` passes the first two checks of `accept` (R310). -/
def ReservedClear.Statement (i : Instr) : Prop :=
  ∃ op : Op, opOf (commandWord i) = op.code ∧ commandWord i &&& op.rsvd = 0#64

/-- The opcode byte of a word whose other fields stand above bit 7. -/
theorem opOf_or_code (w : Command) (op : Op) (h : field w 0 8 = 0#8) : opOf (w ||| place 0 op.code) = op.code := by
  rw [opOf, field_or, h, field_place_same 0 op.code (by decide)]
  simp

theorem code_and_rsvd (op : Op) : place 0 op.code &&& op.rsvd = 0#64 := by
  cases op <;> decide

theorem txframeWord_clear (dc : Bool) (b : Byte) :
    opOf (txframeWord dc b) = Op.code .txframe ∧ txframeWord dc b &&& Op.rsvd .txframe = 0#64 := by
  refine ⟨opOf_or_code _ _ ?_, ?_⟩
  · rw [field_or, field_place_other 16 _ 0 8 (by decide), field_place_other 8 _ 0 8 (by decide)]
    simp
  · rw [txframeWord, BitVec.and_comm, BitVec.and_or_distrib_left, BitVec.and_or_distrib_left]
    simp only [BitVec.and_comm (Op.rsvd .txframe)]
    rw [place_and_mask 16 _ _ (by decide), place_and_mask 8 _ _ (by decide), code_and_rsvd]
    simp

theorem fillrectWord_clear (x y w h : Byte) (c : Color) :
    opOf (fillrectWord x y w h c) = Op.code .fillrect ∧ fillrectWord x y w h c &&& Op.rsvd .fillrect = 0#64 := by
  refine ⟨opOf_or_code _ _ ?_, ?_⟩
  · simp only [field_or]
    rw [field_place_other 40 _ 0 8 (by decide), field_place_other 32 _ 0 8 (by decide),
      field_place_other 24 _ 0 8 (by decide), field_place_other 16 _ 0 8 (by decide), field_place_other 8 _ 0 8 (by decide)]
    simp
  · rw [fillrectWord, BitVec.and_comm]
    simp only [BitVec.and_or_distrib_left]
    simp only [BitVec.and_comm (Op.rsvd .fillrect)]
    rw [place_and_mask 40 _ _ (by decide), place_and_mask 32 _ _ (by decide), place_and_mask 24 _ _ (by decide),
      place_and_mask 16 _ _ (by decide), place_and_mask 8 _ _ (by decide), code_and_rsvd]
    simp

/-- A word of one field above the opcode. -/
theorem oneField_clear {len : Nat} (op : Op) (lo : Nat) (v : BitVec len) (hlo : 8 ≤ lo) (hm : field op.rsvd lo len = 0#len) :
    opOf (place lo v ||| place 0 op.code) = op.code ∧ (place lo v ||| place 0 op.code) &&& op.rsvd = 0#64 := by
  refine ⟨opOf_or_code _ _ (field_place_other lo v 0 8 (by omega)), ?_⟩
  rw [BitVec.and_comm, BitVec.and_or_distrib_left]
  simp only [BitVec.and_comm op.rsvd]
  rw [place_and_mask lo v _ hm, code_and_rsvd]
  simp

theorem ReservedClear.txframe (dc : Bool) (payload : Byte) : ReservedClear.Statement (.txframe dc payload) :=
  ⟨.txframe, txframeWord_clear dc payload⟩

theorem ReservedClear.initdisp : ReservedClear.Statement .initdisp := ⟨.initdisp, by decide⟩

theorem ReservedClear.fillrect (x y w h : Byte) (color : Color) : ReservedClear.Statement (.fillrect x y w h color) :=
  ⟨.fillrect, fillrectWord_clear x y w h color⟩

theorem ReservedClear.readpulse (ch : Channel) : ReservedClear.Statement (.readpulse ch) :=
  ⟨.readpulse, oneField_clear _ 8 _ (by decide) (by decide)⟩

theorem ReservedClear.classify (value : Word32) : ReservedClear.Statement (.classify value) :=
  ⟨.classify, oneField_clear _ 8 _ (by decide) (by decide)⟩

theorem ReservedClear.pinset (pin : PinIndex) : ReservedClear.Statement (.pinset pin) :=
  ⟨.pinset, oneField_clear _ 8 _ (by decide) (by decide)⟩

theorem ReservedClear.pinclr (pin : PinIndex) : ReservedClear.Statement (.pinclr pin) :=
  ⟨.pinclr, oneField_clear _ 8 _ (by decide) (by decide)⟩

theorem ReservedClear.pintest (pin : PinIndex) : ReservedClear.Statement (.pintest pin) :=
  ⟨.pintest, oneField_clear _ 8 _ (by decide) (by decide)⟩

theorem ReservedClear.pindir (pin : PinIndex) (mode : PinMode) : ReservedClear.Statement (.pindir pin mode) := by
  refine ⟨.pindir, opOf_or_code _ _ ?_, ?_⟩
  · rw [field_or, field_place_other 16 _ 0 8 (by decide), field_place_other 8 _ 0 8 (by decide)]
    simp
  · rw [commandWord, BitVec.and_comm]
    simp only [BitVec.and_or_distrib_left]
    simp only [BitVec.and_comm (Op.rsvd .pindir)]
    rw [place_and_mask 16 _ _ (by decide), place_and_mask 8 _ _ (by decide), code_and_rsvd]
    simp

theorem ReservedClear.sendcmd (b : Byte) : ReservedClear.Statement (.sendcmd b) := ⟨.txframe, txframeWord_clear false b⟩

theorem ReservedClear.senddata (b : Byte) : ReservedClear.Statement (.senddata b) := ⟨.txframe, txframeWord_clear true b⟩

theorem ReservedClear.clearscr : ReservedClear.Statement .clearscr := ⟨.fillrect, fillrectWord_clear _ _ _ _ _⟩

theorem ReservedClear.wireDisctl : ReservedClear.Statement .wireDisctl := ⟨.txframe, txframeWord_clear _ _⟩

theorem ReservedClear.wireComscn : ReservedClear.Statement .wireComscn := ⟨.txframe, txframeWord_clear _ _⟩

theorem ReservedClear.wireOscon : ReservedClear.Statement .wireOscon := ⟨.txframe, txframeWord_clear _ _⟩

theorem ReservedClear.wireSlpout : ReservedClear.Statement .wireSlpout := ⟨.txframe, txframeWord_clear _ _⟩

theorem ReservedClear.wireVolctr : ReservedClear.Statement .wireVolctr := ⟨.txframe, txframeWord_clear _ _⟩

theorem ReservedClear.wirePwrctr : ReservedClear.Statement .wirePwrctr := ⟨.txframe, txframeWord_clear _ _⟩

theorem ReservedClear.wireDisinv : ReservedClear.Statement .wireDisinv := ⟨.txframe, txframeWord_clear _ _⟩

theorem ReservedClear.wireDatctl : ReservedClear.Statement .wireDatctl := ⟨.txframe, txframeWord_clear _ _⟩

theorem ReservedClear.wireNop : ReservedClear.Statement .wireNop := ⟨.txframe, txframeWord_clear _ _⟩

theorem ReservedClear.wireDison : ReservedClear.Statement .wireDison := ⟨.txframe, txframeWord_clear _ _⟩

theorem ReservedClear.wirePaset : ReservedClear.Statement .wirePaset := ⟨.txframe, txframeWord_clear _ _⟩

theorem ReservedClear.wireCaset : ReservedClear.Statement .wireCaset := ⟨.txframe, txframeWord_clear _ _⟩

theorem ReservedClear.wireRamwr : ReservedClear.Statement .wireRamwr := ⟨.txframe, txframeWord_clear _ _⟩

theorem ReservedClear.wireData (b : Byte) : ReservedClear.Statement (.wireData b) := ⟨.txframe, txframeWord_clear true b⟩

end Sys2Proof.Laws
end

