-- ==== Sys2Proof/Laws/Run.lean ====
section
/-! SUPPORT. Runs of several steps: how `run` takes one step and adds up, what `noReset` gives for one step and for the
rest, and how events, replayed pins and watched edges go over concatenated lists. -/

namespace Sys2Proof.Machine

/-! ### The port `rst_n` along a run (R700) -/

theorem noReset_congr {s t : State} {n : Nat} (h : t.inputs.rstIn = s.inputs.rstIn) (hs : s.noReset n) : t.noReset n := by
  unfold State.noReset
  rw [h]
  exact hs

theorem noReset_of_nil {s : State} (n : Nat) (h : s.inputs.rstIn = []) : s.noReset n := by
  simp [State.noReset, h]

theorem noReset_rstN {s : State} {n : Nat} (h : s.noReset (n + 1)) : s.rstN = true := by
  unfold State.rstN
  cases hr : s.inputs.rstIn with
  | nil => rfl
  | cons b rest => exact h b (by simp [hr])

theorem noReset_mono {s : State} {m n : Nat} (hmn : m ≤ n) (h : s.noReset n) : s.noReset m :=
  fun b hb => h b (List.Sublist.mem hb (List.take_sublist_take_left hmn))

theorem noReset_pass {s : State} {m n : Nat} (h : s.noReset (m + n)) : (s.pass m).noReset n := by
  intro b hb
  refine h b (List.mem_of_mem_drop (i := m) ?_)
  rw [List.drop_take, Nat.add_sub_cancel_left]
  exact hb

/-! ### Runs -/

@[simp] theorem run_zero (s : State) : run 0 s = .next s := rfl

theorem run_succ {s t : State} (n : Nat) (h : step s = .next t) : run (n + 1) s = run n t := by
  simp [run, h]

theorem run_one {s t : State} (h : step s = .next t) : run 1 s = .next t := run_succ 0 h

theorem run_add {s t : State} (m n : Nat) (h : run m s = .next t) : run (m + n) s = run n t := by
  induction m generalizing s with
  | zero =>
    cases h
    rw [Nat.zero_add]
  | succ m ih =>
    unfold run at h
    split at h
    · next u hu => rw [Nat.succ_add, run_succ _ hu, ih h]
    · cases h
    · cases h

/-- One step of the host's iteration. -/
theorem core_run_succ (M : Host.Core) (n : Nat) (s : M.State) :
    M.run (n + 1) s =
      (match M.step s with
        | .next s' => M.run n s'
        | .fault r => .fault r
        | .refused r => .refused r) := rfl

/-- `run` is the host's own iteration of `core` (Host/Core.lean). -/
theorem run_eq_core_run (n : Nat) (s : State) : run n s = Host.Core.run Sys2Proof.core n s := by
  induction n generalizing s with
  | zero => rfl
  | succ n ih =>
    refine Eq.trans ?_ (core_run_succ Sys2Proof.core n s).symm
    have hc : Sys2Proof.core.step s = step s := rfl
    rw [hc, run]
    cases step s with
    | next t => exact ih t
    | fault r => rfl
    | refused r => rfl

/-! ### Lists of micro-operations and events (R203, R204) -/

@[simp] theorem Seq.ofList_nil : Seq.ofList [] = .idle := rfl

@[simp] theorem Seq.ofList_cons (op : MicroOp) (rest : List MicroOp) : Seq.ofList (op :: rest) = .run op rest := rfl

theorem eventsOf_cons (op : MicroOp) (ops : List MicroOp) : eventsOf (op :: ops) = op.event.toList ++ eventsOf ops := by
  unfold eventsOf
  cases h : op.event <;> simp [h]

theorem eventsOf_append (a b : List MicroOp) : eventsOf (a ++ b) = eventsOf a ++ eventsOf b := by
  simp [eventsOf]

@[simp] theorem Pins.replay_nil (s : Pins) : s.replay [] = s := rfl

@[simp] theorem Pins.replay_cons (s : Pins) (e : Event) (es : List Event) : s.replay (e :: es) = (s.after e).replay es := rfl

/-- The end of a run (R722): idle, and no word is left among the offers. -/
theorem ended_iff (s : State) : s.ended = true ↔ s.seq = .idle ∧ ∀ w, some w ∉ s.inputs.offers := by
  simp only [State.ended, Bool.and_eq_true, beq_iff_eq, List.all_eq_true, Option.isNone_iff_eq_none]
  refine and_congr_right fun _ => ⟨fun h w hw => ?_, fun h o ho => ?_⟩
  · simpa using h _ hw
  · cases o with
    | none => rfl
    | some w => exact absurd ho (h w)

theorem Pins.replay_append (s : Pins) (a b : List Event) : s.replay (a ++ b) = (s.replay a).replay b := by
  simp [Pins.replay]

theorem Receiver.watch_append (edge : Edge) (r : Receiver) (s : Pins) (a b : List Event) :
    r.watch edge s (a ++ b) = (r.watch edge s a).watch edge (s.replay a) b := by
  induction a generalizing r s with
  | nil => rfl
  | cons e a ih => simp [Receiver.watch, ih]

theorem countEdges_append (edge : Edge) (p : OutPin) (s : Pins) (a b : List Event) :
    countEdges edge p s (a ++ b) = countEdges edge p s a + countEdges edge p (s.replay a) b := by
  induction a generalizing s with
  | nil => simp [countEdges]
  | cons e a ih => simp [countEdges, ih, Nat.add_assoc]

/-- R421 written out: what `frameBitOrder` and the repeat come to. -/
theorem frameOps_eq (f : Frame) :
    frameOps f =
      [.wr .cs false]
        ++ [8, 7, 6, 5, 4, 3, 2, 1, 0].flatMap (fun i => [.wr .sda (f.getLsbD i), .wr .sck true, .wr .sck false])
        ++ [.wr .cs true] := rfl

@[simp] theorem frameOps_length (f : Frame) : (frameOps f).length = 29 := rfl

/-- The bits of a frame value (R320). -/
theorem frameWord_flag (dc : Bool) (b : Byte) : (frameWord dc b).getLsbD 8 = dc := by
  revert dc b
  decide

theorem frameWord_bit (dc : Bool) (b : Byte) (i : Nat) (h : i < 8) : (frameWord dc b).getLsbD i = b.getLsbD i := by
  revert dc b i
  decide

end Sys2Proof.Machine
end

