-- ==== Sys2Proof/Tests/Slice0.lean ====
section
/-! SUPPORT. The model's own tests: the checks of `WellFormed.lean` refuse what they should, words written out from the
spec's encodings decode and encode, single steps give what the spec's vectors (95_test_vectors.md) or rules say, and for
each statement with hypotheses a concrete state and operands that meet them (the `witness_` theorems). -/

namespace Sys2Proof.Machine.Test

/-! ### Small states -/

/-- An idle block with chosen latches and directions, `rst_n` released and nothing offered. -/
def quiet (lat : PerPin Bool) (dir : PerPin PinMode) : State :=
  let s := State.atReset lat { rstIn := [], offers := [], rdIdx := 0#4, env := [] } { draws := 0, resets := 1 }
  { s with pins := { lat := lat, dir := dir } }

/-- All display lines are outputs; chip-select idle, clock low. -/
def outputs : State := quiet { sck := false, sda := false, cs := true, rst := true } (PerPin.all .out)

/-- All display lines are inputs. -/
def inputsOnly : State := quiet { sck := true, sda := true, cs := false, rst := false } (PerPin.all .inp)

/-- `s` with the host offering a word, then more. -/
def offering (s : State) (w : Command) (later : List (Option Command)) : State :=
  { s with inputs := { s.inputs with offers := some w :: later } }

/-- `s` with the environment giving the listed levels. -/
def sampling (s : State) (levels : List Bool) : State := { s with inputs := { s.inputs with env := levels } }

/-- `s` with the levels of `rst_n` to come. -/
def resetting (s : State) (levels : List Bool) : State := { s with inputs := { s.inputs with rstIn := levels } }

/-- A block to which the host offers nothing in one step and then a word. -/
def waiting : State := { outputs with inputs := { outputs.inputs with offers := [none, some 0x2#64] } }

/-- A block in a phase of the pulse loop whose input stays at one level for `n` steps. -/
def hanging (ph : Phase) (level : Bool) (n : Nat) : State :=
  sampling (outputs.setSeq (.pulse .pin0 ph Counts.zero)) (List.replicate n level)

/-- The state a result holds, or the given one. -/
def stateOf (r : Result) (s : State) : State :=
  match r with
  | .next t => t
  | .fault _ => s
  | .refused _ => s

/-- The state after one step. -/
def after (s : State) : State := stateOf (step s) s

theorem outputs_offering (w : Command) (later : List (Option Command)) (n : Nat) :
    (offering outputs w later).Offering w later n := ⟨noReset_of_nil n rfl, rfl, rfl⟩

theorem outputs_noReset (n : Nat) : outputs.noReset n := noReset_of_nil n rfl

theorem offering_noReset (w : Command) (later : List (Option Command)) (n : Nat) : (offering outputs w later).noReset n :=
  noReset_of_nil n rfl

/-! ### WellFormed (R305) -/

theorem test_wf_refuses_pinset_of_input : (Instr.pinset 4#3).wf = false := by decide
theorem test_wf_refuses_pinclr_of_reserved : (Instr.pinclr 7#3).wf = false := by decide
theorem test_wf_refuses_pintest_of_reserved : (Instr.pintest 6#3).wf = false := by decide
theorem test_wf_refuses_pindir_of_input : (Instr.pindir 5#3 .out).wf = false := by decide
theorem test_wf_refuses_x_131 : (Instr.fillrect 131#8 0#8 1#8 1#8 0#12).wf = false := by decide
theorem test_wf_refuses_y_131 : (Instr.fillrect 0#8 131#8 1#8 1#8 0#12).wf = false := by decide
theorem test_wf_refuses_w_0 : (Instr.fillrect 0#8 0#8 0#8 1#8 0#12).wf = false := by decide
theorem test_wf_refuses_w_132 : (Instr.fillrect 0#8 0#8 132#8 1#8 0#12).wf = false := by decide
theorem test_wf_refuses_h_0 : (Instr.fillrect 0#8 0#8 1#8 0#8 0#12).wf = false := by decide
theorem test_wf_refuses_h_132 : (Instr.fillrect 0#8 0#8 1#8 132#8 0#12).wf = false := by decide
theorem test_wf_takes_corner : (Instr.fillrect 130#8 130#8 131#8 131#8 0xFFF#12).wf = true := by decide
theorem test_wf_takes_pintest_of_input : (Instr.pintest 5#3).wf = true := by decide
/-- The parameters of R5 agree with the encoding: two channels for the one bit of CH, pins 0 to 5, a frame of flag and byte. -/
theorem test_parameters_fit :
    Channel.list = [.pin0, .pin1] ∧ Channel.list.length = Config.nPulseIn ∧ Config.frameBits = 1 + 8
      ∧ maxTicks = 0xFFFFFFFF#32 := by decide
theorem test_thresholds_ordered : Config.thresholdsOrdered = true := by decide

/-! ### Words written out from R301, R307 and R452 -/

/-- TXFRAME: reserved 63..17, DC 16, PAYLOAD 15..8, OP (vector T1). -/
theorem test_decode_txframe :
    decodeCommand 0b00000000000000000000000000000000000000000000000_1_10100101_00000001#64 = .instr (.txframe true 0xA5#8)
      ∧ commandWord (.txframe true 0xA5#8) = 0x000000000001A501#64 := by decide
/-- INITDISP: reserved 63..8, OP. -/
theorem test_decode_initdisp :
    decodeCommand 0b00000000000000000000000000000000000000000000000000000000_00000010#64 = .instr .initdisp
      ∧ commandWord .initdisp = 0x0000000000000002#64 := by decide
/-- FILLRECT: reserved 63..52, COLOR, H, W, Y, X, OP (vector F6). -/
theorem test_decode_fillrect :
    decodeCommand 0b000000000000_000011110000_00000011_00000100_00000111_00000101_00000011#64
        = .instr (.fillrect 5#8 7#8 4#8 3#8 0x0F0#12)
      ∧ commandWord (.fillrect 5#8 7#8 4#8 3#8 0x0F0#12) = 0x0000F00304070503#64 := by decide
/-- READPULSE: reserved 63..9, CH 8, OP. -/
theorem test_decode_readpulse :
    decodeCommand 0b0000000000000000000000000000000000000000000000000000000_1_00000100#64 = .instr (.readpulse .pin1)
      ∧ commandWord (.readpulse .pin1) = 0x0000000000000104#64 := by decide
/-- CLASSIFY: reserved 63..40, VALUE 39..8, OP (vector K6, and K5). -/
theorem test_decode_classify :
    decodeCommand 0b000000000000000000000000_11111111111111111111111111111111_00000101#64
        = .instr (.classify 4294967295#32)
      ∧ commandWord (.classify 9921#32) = 0x000000000026C105#64 := by decide
/-- PINSET: reserved 63..11, PIN 10..8, OP. -/
theorem test_decode_pinset :
    decodeCommand 0b00000000000000000000000000000000000000000000000000000_010_00001000#64 = .instr (.pinset 2#3)
      ∧ commandWord (.pinset 3#3) = 0x0000000000000308#64 := by decide
theorem test_decode_pinclr :
    decodeCommand 0x0000000000000309#64 = .instr (.pinclr 3#3) ∧ commandWord (.pinclr 3#3) = 0x0000000000000309#64 := by decide
theorem test_decode_pintest :
    decodeCommand 0x000000000000050A#64 = .instr (.pintest 5#3) ∧ commandWord (.pintest 5#3) = 0x000000000000050A#64 := by decide
/-- PINDIR: reserved 63..17, MODE 16, reserved 15..11, PIN 10..8, OP (vectors G4, G5). -/
theorem test_decode_pindir :
    decodeCommand 0b00000000000000000000000000000000000000000000000_1_00000_001_00001011#64 = .instr (.pindir 1#3 .out)
      ∧ commandWord (.pindir 2#3 .inp) = 0x000000000000020B#64 := by decide
/-- The pseudo-instructions' words are their expansions' (R307). -/
theorem test_encode_pseudo :
    commandWord (.sendcmd 0x25#8) = 0x0000000000002501#64 ∧ commandWord (.senddata 0x5A#8) = 0x0000000000015A01#64
      ∧ commandWord .clearscr = 0x0000008383000003#64
      ∧ decodeCommand 0x0000000000002501#64 = .instr (.txframe false 0x25#8) := by decide
/-- The wire rows of the opcode table, as their `encoding` strings. -/
theorem test_decode_wire_rows :
    decodeFrame 0b011001010#9 = some .wireDisctl ∧ decodeFrame 0b010111011#9 = some .wireComscn
      ∧ decodeFrame 0b011010001#9 = some .wireOscon ∧ decodeFrame 0b010010100#9 = some .wireSlpout
      ∧ decodeFrame 0b010000001#9 = some .wireVolctr ∧ decodeFrame 0b000100000#9 = some .wirePwrctr
      ∧ decodeFrame 0b010100111#9 = some .wireDisinv ∧ decodeFrame 0b010111100#9 = some .wireDatctl
      ∧ decodeFrame 0b000100101#9 = some .wireNop ∧ decodeFrame 0b010101111#9 = some .wireDison
      ∧ decodeFrame 0b001110101#9 = some .wirePaset ∧ decodeFrame 0b000010101#9 = some .wireCaset
      ∧ decodeFrame 0b001011100#9 = some .wireRamwr ∧ decodeFrame 0b111001010#9 = some (.wireData 0xCA#8)
      ∧ decodeFrame 0b000000001#9 = none := by decide
/-- The rejections: OP 0x00 and 0x0C (X1, X10), a reserved bit (X4, X5, X11). -/
theorem test_decode_rejects :
    decodeCommand 0#64 = .badop ∧ decodeCommand 0x000000010100000C#64 = .badop
      ∧ decodeCommand 0x0000000000022501#64 = .rsvd ∧ decodeCommand 0x000000000000080B#64 = .rsvd
      ∧ decodeCommand 0x8000000000000708#64 = .rsvd := by decide
theorem test_table_word_of_frame :
    decodeTableWord 16 0x0CA = some .wireDisctl ∧ decodeTableWord 16 0x300 = none
      ∧ decodeTableWord 64 0x0CA = none := by decide

/-! ### Single steps -/

/-- PINSET CS is accepted and runs next (vector G1). -/
theorem test_step_pinset : (after (offering outputs 0x208#64 [])).seq = .run (.wr .cs true) [] := by decide
/-- G2: right after reset the latch changes and the pin stays undriven. -/
theorem test_pinset_on_input :
    (after (inputsOnly.setSeq (.run (.wr .rst true) []))).pins.lat.rst = true
      ∧ (after (inputsOnly.setSeq (.run (.wr .rst true) []))).pins.drive .rst = none := by decide
/-- G3: the event is recorded though the latch is 0 already. -/
theorem test_step_pinclr :
    (after (offering outputs 0x9#64 [])).seq = .run (.wr .sck false) []
      ∧ (after (outputs.setSeq (.run (.wr .sck false) []))).trace = [.wr .sck false] := by decide
/-- G6: a driven pin reads its latch, with no event. -/
theorem test_pintest_driven :
    (after (outputs.setSeq (.run (.tst (.out .cs)) []))).pinbit = true
      ∧ (after (outputs.setSeq (.run (.tst (.out .cs)) []))).trace = [] := by decide
/-- G8: PIN1 reads the level the source gives at that step. -/
theorem test_pintest_input :
    (after (offering outputs 0x50A#64 [])).seq = .run (.tst (.pulse .pin1)) []
      ∧ (after (sampling (outputs.setSeq (.run (.tst (.pulse .pin1)) [])) [true, false])).pinbit = true := by decide
/-- G4: PINDIR SDA, OUT drives the latch at once. -/
theorem test_pindir_drives :
    (after (offering inputsOnly 0x1010B#64 [])).seq = .run (.dirw .sda .out) []
      ∧ (after (inputsOnly.setSeq (.run (.dirw .sda .out) []))).pins.drive .sda = some true := by decide
/-- T1: the frame 0x1A5 and its 29 events. -/
theorem test_txframe_events :
    eventsOf (frame true 0xA5#8) =
      [.wr .cs false, .wr .sda true, .wr .sck true, .wr .sck false, .wr .sda true, .wr .sck true, .wr .sck false,
        .wr .sda false, .wr .sck true, .wr .sck false, .wr .sda true, .wr .sck true, .wr .sck false,
        .wr .sda false, .wr .sck true, .wr .sck false, .wr .sda false, .wr .sck true, .wr .sck false,
        .wr .sda true, .wr .sck true, .wr .sck false, .wr .sda false, .wr .sck true, .wr .sck false,
        .wr .sda true, .wr .sck true, .wr .sck false, .wr .cs true] := by decide
/-- T4: 9 falling and 8 rising edges from a high clock, delivered; a rising-edge receiver breaks. -/
theorem test_frame_delivered_from_high_clock :
    let s : Pins := { lat := { sck := true, sda := true, cs := true, rst := true }, dir := PerPin.all .out }
    let es := eventsOf (frame false 0xCA#8)
    delivered s es = [.frame 0x0CA#9] ∧ countEdges .falling .sck s es = 9 ∧ countEdges .rising .sck s es = 8
      ∧ (Receiver.fresh.watch .rising s es).delivered = [.broken 8] := by decide
/-- T5: all display lines inputs: nothing is delivered; nor is it with the clock alone an input (R429). -/
theorem test_frame_undriven :
    delivered inputsOnly.pins (eventsOf (frame true 0x5A#8)) = []
      ∧ delivered (outputs.setDir .sck .inp).pins (eventsOf (frame true 0x5A#8)) = [] := by decide
/-- I-1: the first micro-steps of INITDISP, and its frames for a choice of the payloads. -/
theorem test_initdisp_list :
    eventsOf (initPreamble 7) =
        [.dir .sck .out, .dir .sda .out, .dir .cs .out, .dir .rst .out, .wr .sck false, .wr .sda false, .delay 7,
          .wr .cs true, .wr .rst false, .delay 200, .wr .rst true, .delay 200, .wr .sck true, .wr .sda true]
      ∧ initFrames (fun b => if b == 0xCA#8 then [0xAB#8] else []) =
        [0x0CA#9, 0x1AB#9, 0x0BB#9, 0x0D1#9, 0x094#9, 0x081#9, 0x020#9, 0x0A7#9, 0x0BC#9, 0x025#9, 0x0AF#9] := by decide
theorem test_step_initdisp : (after (offering outputs 0x2#64 [])).seq.busy = true := by decide
/-- F2, F3 and F4: the frames, and both windows beyond 255. -/
theorem test_fillrect_frames :
    fillFrames 0#8 0#8 3#8 1#8 0xABC#12 =
        [0x075#9, 0x100#9, 0x102#9, 0x015#9, 0x100#9, 0x102#9, 0x05C#9, 0x1AB#9, 0x1CA#9, 0x1BC#9]
      ∧ columnWindow 130#8 131#8 = [0x82#8, 0x04#8] ∧ rowWindow 130#8 131#8 = [0x82#8, 0x06#8] := by decide
/-- X8: FILLRECT with W = 0 records RANGE. -/
theorem test_fillrect_range :
    (after (offering outputs 0x0000000100000003#64 [])).readReg 1#4 = 0x00000084#32
      ∧ (after (offering outputs 0x0000000100000003#64 [])).readReg 3#4 = 0x00000001#32 := by decide
/-- The packing table (R465). -/
theorem test_packing : packPair 0x123#12 0x456#12 = [0x12#8, 0x34#8, 0x56#8] ∧ packPair 0x0F0#12 0x0F0#12 = [0x0F#8, 0x00#8, 0xF0#8] := by
  decide
theorem test_step_readpulse : (after (offering outputs 0x104#64 [])).seq = .pulse .pin1 .p1 Counts.zero := by decide
/-- The sample that ends P4 writes the results together (R504). -/
theorem test_pulse_completes :
    (after (sampling (outputs.setSeq (.pulse .pin0 .p4 { hc := 2#32, lc := 1#32, ovh := false, ovl := false })) [true])).ticks
      = { high := 2#32, low := 1#32, tovfH := false, tovfL := false } := by decide
/-- The edge of saturation (P-9, P-10). -/
theorem test_count_saturates :
    incSat 0xFFFFFFFE#32 false = (0xFFFFFFFF#32, false) ∧ incSat 0xFFFFFFFF#32 false = (0xFFFFFFFF#32, true) := by decide
/-- K2 to K5: both thresholds are strict. -/
theorem test_classify_thresholds :
    classify 7919#32 = 0b01#2 ∧ classify 7920#32 = 0b00#2 ∧ classify 9920#32 = 0b00#2 ∧ classify 9921#32 = 0b10#2 := by decide
theorem test_step_classify : (after (offering outputs 0x0000000000138805#64 [])).seq = .run (.setclass 0b01#2) [] := by decide
/-- SENDCMD, SENDDATA and a wire row start their frames (R423, R322). -/
theorem test_exec_frames :
    (stateOf (exec (.sendcmd 0x25#8) outputs) outputs).seq = Seq.ofList (frame false 0x25#8)
      ∧ (stateOf (exec (.senddata 0x5A#8) outputs) outputs).seq = Seq.ofList (frame true 0x5A#8)
      ∧ (stateOf (exec .wireNop outputs) outputs).seq = Seq.ofList (frame false 0x25#8)
      ∧ (stateOf (exec (.wireData 0xCA#8) outputs) outputs).seq = Seq.ofList (frame true 0xCA#8) := by decide
theorem test_exec_clearscr : (stateOf (exec .clearscr outputs) outputs).seq.busy = true := by decide
/-- X6 and X12: BADPIN, and RSVD before RANGE. -/
theorem test_fault_records :
    (after (offering outputs 0x408#64 [])).readReg 1#4 = 0x00000043#32
      ∧ (after (offering outputs 0x1000000101008303#64 [])).readReg 1#4 = 0x00000022#32
      ∧ (after (offering outputs 0x1000000101008303#64 [])).readReg 0#4 = 0x00000008#32 := by decide
/-- A reset step abandons a frame and reaches `Idle` with all pins inputs (R701). -/
theorem test_reset_step :
    (after (resetting (outputs.setSeq (Seq.ofList (frame true 0xFF#8))) [false])).seq = .idle
      ∧ (after (resetting (outputs.setSeq (Seq.ofList (frame true 0xFF#8))) [false])).pins.dir = PerPin.all .inp := by decide
/-- The first instruction after reset: a command word and a wire frame. -/
theorem test_fetch_after_reset :
    (after (State.reset.withFetchWord 64 0x208)).seq = .run (.wr .cs true) []
      ∧ (after (State.reset.withFetchWord 16 0x15A)).seq = Seq.ofList (frame true 0x5A#8)
      ∧ (after (State.reset.withFetchWord 64 0x8383000003)).seq.busy = true := by decide

/-! ### Witnesses: hypotheses of the statements that a state and operands meet -/

theorem witness_PinLevels :
    outputs.pins.dir.get .cs = .out ∧ inputsOnly.pins.dir.get .cs = .inp
      ∧ (∀ p, Pin.out .cs = .out p → inputsOnly.pins.dir.get p = .inp)
      ∧ (∀ p, Pin.pulse .pin0 = .out p → outputs.pins.dir.get p = .inp)
      ∧ (sampling inputsOnly [true]).inputs.env = [true] ∧ inputsOnly.inputs.env = [] := by
  refine ⟨rfl, rfl, fun p _ => by cases p <;> rfl, ?_, rfl, rfl⟩
  intro p h
  cases h

theorem witness_reserved_register : 8 ≤ (8#4).toNat ∧ 8 ≤ (15#4).toNat ∧ (0#4 : BitVec 4) ≠ 7#4 := by decide

/-- An acceptance is a step that answers a next state; also an idle step, a micro-operation and a sample are. -/
theorem witness_step_answers :
    step (offering outputs 0x208#64 []) = .next (after (offering outputs 0x208#64 []))
      ∧ step outputs = .next (after outputs)
      ∧ step (outputs.setSeq (.run (.wr .sck true) [])) = .next (after (outputs.setSeq (.run (.wr .sck true) [])))
      ∧ step (outputs.setSeq (.pulse .pin0 .p1 Counts.zero)) = .next (after (outputs.setSeq (.pulse .pin0 .p1 Counts.zero))) :=
  ⟨rfl, rfl, rfl, rfl⟩

/-- A busy block with a word offered: `cmd_ready` is 0 and the step answers (BusyBlockHoldsTheOfferedCommand). -/
theorem witness_busy :
    let s := (offering outputs 0x208#64 []).setSeq (.run (.wr .sck true) [])
    s.noReset 1 ∧ s.cmdReady = false ∧ step s = .next (after s) :=
  ⟨noReset_of_nil 1 rfl, rfl, rfl⟩

/-- A step that changes each piece of state (EachFieldIsWrittenOnlyByItsNamedStep). -/
theorem witness_each_field_changes :
    (after (outputs.setSeq (.run (.wr .sck true) []))).pins.lat.get .sck ≠ outputs.pins.lat.get .sck
      ∧ (after (outputs.setSeq (.run (.dirw .sck .inp) []))).pins.dir.get .sck ≠ outputs.pins.dir.get .sck
      ∧ (after (outputs.setSeq (.run (.tst (.out .cs)) []))).pinbit ≠ outputs.pinbit
      ∧ (after (outputs.setSeq (.run (.setclass 0b10#2) []))).classCode ≠ outputs.classCode
      ∧ (after (sampling (outputs.setSeq (.pulse .pin0 .p4 { Counts.zero with hc := 5#32 })) [true])).ticks ≠ outputs.ticks
      ∧ (after (offering outputs 0#64 [])).faults ≠ outputs.faults := by decide

/-- The five cases of a step, and a legal instruction that starts to run (OneStepDoesOneOfTheListedThings,
StepRunsTheDecodedInstruction, StepRunsEveryInstructionByItsWord). -/
theorem witness_step_cases :
    (outputs.noReset 1 ∧ outputs.seq = .idle ∧ outputs.inputs.offers = [])
      ∧ (waiting.noReset 1 ∧ waiting.seq = .idle ∧ waiting.inputs.offers = none :: [some 0x2#64])
      ∧ (offering outputs 0x208#64 []).Offering 0x208#64 [] 1 ∧ decodeCommand 0x208#64 = .instr (.pinset 2#3)
      ∧ commandWord (.pinset 2#3) = 0x208#64
      ∧ decodeCommand 0x0#64 = .badop ∧ decodeCommand 0x808#64 = .rsvd
      ∧ (Instr.pinset 2#3).wf = true ∧ exec (.pinset 2#3) outputs = .next (outputs.setSeq (.run (.wr .cs true) [])) := by
  refine ⟨⟨outputs_noReset 1, rfl, rfl⟩, ⟨noReset_of_nil 1 rfl, rfl, rfl⟩, outputs_offering _ _ 1, ?_, ?_, ?_, ?_, ?_, rfl⟩ <;> decide

/-- A list that is still running and the port held high by a list of levels. -/
theorem witness_running_list :
    (1 < (frame true 0xA5#8).length) ∧ (resetting outputs [true, true]).noReset 2
      ∧ (∀ c, MicroOp.setclass c ∉ frame true 0xA5#8) ∧ (∀ p, MicroOp.tst p ∉ frame true 0xA5#8) := by
  refine ⟨by decide, ?_, ?_, ?_⟩
  · intro b hb
    simpa [resetting] using hb
  · intro c
    simp [frame, frameOps, frameBit]
  · intro p
    simp [frame, frameOps, frameBit]

/-- One word under each row's mask (OpcodeTableRowsDecodeWithTheirFields). -/
theorem witness_table_rows :
    (0x1A501#64 : Command) &&& 0xFFFFFFFFFFFE00FF#64 = 0x01#64 ∧ (0x2#64 : Command) &&& 0xFFFFFFFFFFFFFFFF#64 = 0x02#64
      ∧ (0x000ABC0202030203#64 : Command) &&& 0xFFF00000000000FF#64 = 0x03#64
      ∧ (0x104#64 : Command) &&& 0xFFFFFFFFFFFFFEFF#64 = 0x04#64
      ∧ (0xFFFFFFFF05#64 : Command) &&& 0xFFFFFF00000000FF#64 = 0x05#64
      ∧ (0x708#64 : Command) &&& 0xFFFFFFFFFFFFF8FF#64 = 0x08#64 ∧ (0x709#64 : Command) &&& 0xFFFFFFFFFFFFF8FF#64 = 0x09#64
      ∧ (0x70A#64 : Command) &&& 0xFFFFFFFFFFFFF8FF#64 = 0x0A#64
      ∧ (0x1070B#64 : Command) &&& 0xFFFFFFFFFFFEF8FF#64 = 0x0B#64 := by decide

/-- The five outcomes of the checks of R310, each on an offered word. -/
theorem witness_accept_outcomes :
    (∀ w, (offering outputs w []).Offering w [] 1)
      ∧ acceptCheck 0x0C#64 = some .badop ∧ acceptCheck 0x22501#64 = some .rsvd
      ∧ acceptCheck 0x60A#64 = some .badpin ∧ acceptCheck 0x408#64 = some .badpin
      ∧ acceptCheck 0x0000000101008303#64 = some .range
      ∧ acceptCheck 0x40A#64 = none ∧ acceptCheck 0x0000008383828203#64 = none := by
  refine ⟨fun w => outputs_offering w [] 1, ?_⟩
  decide

theorem witness_decoded_words :
    decodeCommand 0xFFFFFFFF05#64 = .instr (.classify 4294967295#32) ∧ decodeFrame 0x1FF#9 = some (.wireData 0xFF#8) := by decide

theorem witness_numbers : number "0xFF".toList = some 255 ∧ number "12a".toList = none := by decide

/-- The three clauses of PINSET, at the least input pin, at both ends of the output pins, and with a reserved bit. -/
theorem witness_pinset :
    (∀ w, (offering outputs w []).Offering w [] 2)
      ∧ field 0x808#64 0 8 = 0x08#8 ∧ (0x808#64 : Command) &&& 0xFFFFFFFFFFFFF800#64 ≠ 0#64
      ∧ field 0x408#64 0 8 = 0x08#8 ∧ (0x408#64 : Command) &&& 0xFFFFFFFFFFFFF800#64 = 0#64 ∧ 4 ≤ (field 0x408#64 8 3).toNat
      ∧ field 0x008#64 8 3 = outPinIndex .sck ∧ field 0x308#64 8 3 = outPinIndex .rst
      ∧ (0x308#64 : Command) &&& 0xFFFFFFFFFFFFF800#64 = 0#64 := by
  refine ⟨fun w => outputs_offering w [] 2, ?_⟩
  decide

theorem witness_pinclr :
    field 0x809#64 0 8 = 0x09#8 ∧ (0x809#64 : Command) &&& 0xFFFFFFFFFFFFF800#64 ≠ 0#64
      ∧ field 0x709#64 0 8 = 0x09#8 ∧ (0x709#64 : Command) &&& 0xFFFFFFFFFFFFF800#64 = 0#64 ∧ 4 ≤ (field 0x709#64 8 3).toNat
      ∧ field 0x309#64 0 8 = 0x09#8 ∧ (0x309#64 : Command) &&& 0xFFFFFFFFFFFFF800#64 = 0#64
      ∧ field 0x309#64 8 3 = outPinIndex .rst := by decide

theorem witness_pintest :
    field 0x80A#64 0 8 = 0x0A#8 ∧ (0x80A#64 : Command) &&& 0xFFFFFFFFFFFFF800#64 ≠ 0#64
      ∧ field 0x60A#64 0 8 = 0x0A#8 ∧ (0x60A#64 : Command) &&& 0xFFFFFFFFFFFFF800#64 = 0#64 ∧ 6 ≤ (field 0x60A#64 8 3).toNat
      ∧ field 0x50A#64 0 8 = 0x0A#8 ∧ (0x50A#64 : Command) &&& 0xFFFFFFFFFFFFF800#64 = 0#64
      ∧ field 0x50A#64 8 3 = pinIndex (.pulse .pin1) ∧ field 0x30A#64 8 3 = pinIndex (.out .rst) := by decide

theorem witness_pindir :
    field 0x80B#64 0 8 = 0x0B#8 ∧ (0x80B#64 : Command) &&& 0xFFFFFFFFFFFEF800#64 ≠ 0#64
      ∧ field 0x1040B#64 0 8 = 0x0B#8 ∧ (0x1040B#64 : Command) &&& 0xFFFFFFFFFFFEF800#64 = 0#64
      ∧ 4 ≤ (field 0x1040B#64 8 3).toNat ∧ PinMode.out = (if (0x1040B#64 : Command).getLsbD 16 then .out else .inp)
      ∧ field 0x0030B#64 8 3 = outPinIndex .rst ∧ (0x0030B#64 : Command) &&& 0xFFFFFFFFFFFEF800#64 = 0#64
      ∧ PinMode.inp = (if (0x0030B#64 : Command).getLsbD 16 then .out else .inp) := by decide

theorem witness_txframe :
    (offering outputs 0x1FF01#64 []).Offering 0x1FF01#64 [] 30
      ∧ field 0x1FF01#64 0 8 = 0x01#8 ∧ (0x1FF01#64 : Command) &&& 0xFFFFFFFFFFFE0000#64 = 0#64
      ∧ field 0x22501#64 0 8 = 0x01#8 ∧ (0x22501#64 : Command) &&& 0xFFFFFFFFFFFE0000#64 ≠ 0#64
      ∧ true = (0x1FF01#64 : Command).getLsbD 16 ∧ 0xFF#8 = field 0x1FF01#64 8 8 := by
  refine ⟨outputs_offering _ _ 30, ?_⟩
  decide

theorem witness_frame_pins :
    outputs.noReset 29 ∧ outputs.pins.dir.sck = .out ∧ outputs.pins.dir.sda = .out ∧ outputs.pins.dir.cs = .out
      ∧ outputs.pins.lat.cs = true
      ∧ (outputs.setLat .sck true).pins.lat.sck = true ∧ (outputs.setLat .sck true).pins.lat.cs = true
      ∧ inputsOnly.pins.dir.cs = .inp
      ∧ (outputs.setDir .sda .inp).pins.dir.sda = .inp ∧ (outputs.setDir .sck .inp).pins.dir.sck = .inp
      ∧ inputsOnly.noReset 29 :=
  ⟨outputs_noReset 29, rfl, rfl, rfl, rfl, rfl, rfl, rfl, rfl, rfl, noReset_of_nil 29 rfl⟩

/-- The first and the last data write of a frame (DataIsWrittenWhileTheClockIsLowOrFirstInTheFrame). -/
theorem witness_data_writes :
    eventsOf (frame true 0x5A#8) = [.wr .cs false] ++ .wr .sda true :: (eventsOf (frame true 0x5A#8)).drop 2
      ∧ eventsOf (frame true 0x5A#8) =
        (eventsOf (frame true 0x5A#8)).take 25 ++ .wr .sda false :: (eventsOf (frame true 0x5A#8)).drop 26 := by decide

theorem witness_wire_row :
    (∀ e ∈ [(Instr.wireDisctl, 0xCA#8), (.wireRamwr, 0x5C#8)],
      e ∈ [(Instr.wireDisctl, 0xCA#8), (.wireComscn, 0xBB#8), (.wireOscon, 0xD1#8), (.wireSlpout, 0x94#8),
        (.wireVolctr, 0x81#8), (.wirePwrctr, 0x20#8), (.wireDisinv, 0xA7#8), (.wireDatctl, 0xBC#8), (.wireNop, 0x25#8),
        (.wireDison, 0xAF#8), (.wirePaset, 0x75#8), (.wireCaset, 0x15#8), (.wireRamwr, 0x5C#8)])
      ∧ outputs.noReset 29 :=
  ⟨by decide, outputs_noReset 29⟩

theorem witness_initdisp (n : Nat) :
    (offering outputs 0x2#64 []).Offering 0x2#64 [] n ∧ field 0x2#64 0 8 = 0x02#8
      ∧ (0x2#64 : Command) &&& 0xFFFFFFFFFFFFFF00#64 = 0#64
      ∧ field 0x102#64 0 8 = 0x02#8 ∧ (0x102#64 : Command) &&& 0xFFFFFFFFFFFFFF00#64 ≠ 0#64 := by
  refine ⟨outputs_offering _ _ n, ?_⟩
  decide

theorem witness_init_prefix : (3 ≤ 7 ∧ 7 ≤ 7) ∧ (4 ≤ 8 ∧ 8 ≤ 8) := by decide

/-- FILLRECT at its four corners of the legal ranges, one past each, and with a reserved bit. -/
theorem witness_fillrect (n : Nat) :
    (offering outputs 0x0000008383828203#64 []).Offering 0x0000008383828203#64 [] n
      ∧ field 0x0000008383828203#64 0 8 = 0x03#8 ∧ (0x0000008383828203#64 : Command) &&& 0xFFF0000000000000#64 = 0#64
      ∧ (field 0x0000008383828203#64 8 8).toNat ≤ 130 ∧ (field 0x0000008383828203#64 16 8).toNat ≤ 130
      ∧ 1 ≤ (field 0x0001230101000003#64 24 8).toNat ∧ (field 0x0000008383828203#64 24 8).toNat ≤ 131
      ∧ 1 ≤ (field 0x0001230101000003#64 32 8).toNat ∧ (field 0x0000008383828203#64 32 8).toNat ≤ 131
      ∧ 130 < (field 0x0000000101008303#64 8 8).toNat ∧ (field 0x0000000100000003#64 24 8).toNat = 0
      ∧ 130 < (field 0x0000000101830003#64 16 8).toNat ∧ 131 < (field 0x0000008401000003#64 32 8).toNat
      ∧ 131 < (field 0x0000000184000003#64 24 8).toNat ∧ (field 0x0000000001000003#64 32 8).toNat = 0
      ∧ field 0x1000000101008303#64 0 8 = 0x03#8 ∧ (0x1000000101008303#64 : Command) &&& 0xFFF0000000000000#64 ≠ 0#64 := by
  refine ⟨outputs_offering _ _ n, ?_⟩
  decide

/-- A sample of either level in each phase, and a count at and below saturation. -/
theorem witness_pulse_sample (ph : Phase) (c : Counts) (b : Bool) :
    let s := sampling (outputs.setSeq (.pulse .pin0 ph c)) [b]
    s.noReset 1 ∧ (level (.pulse .pin0) (s.pass 1)).1 = b ∧ s.seq = .pulse .pin0 ph c
      ∧ (0xFFFFFFFF#32).toNat = 2 ^ 32 - 1 ∧ (0#32).toNat < 2 ^ 32 - 1 :=
  ⟨noReset_of_nil 1 rfl, rfl, rfl, by decide, by decide⟩

theorem witness_readpulse :
    (offering outputs 0x104#64 []).Offering 0x104#64 [] 1 ∧ field 0x104#64 0 8 = 0x04#8
      ∧ (0x104#64 : Command) &&& 0xFFFFFFFFFFFFFE00#64 = 0#64
      ∧ Channel.pin1 = (if (0x104#64 : Command).getLsbD 8 then .pin1 else .pin0)
      ∧ field 0x204#64 0 8 = 0x04#8 ∧ (0x204#64 : Command) &&& 0xFFFFFFFFFFFFFE00#64 ≠ 0#64 := by
  refine ⟨outputs_offering _ _ 1, ?_⟩
  decide

/-- P-1 as runs: `k = 1`, `m = 0`, `a = 3`, `b = 2`. -/
theorem witness_pulse_runs :
    let s := sampling outputs [true, false, true, true, true, false, false, true]
    1 ≤ 3 ∧ 1 ≤ 2 ∧ s.noReset (1 + 1 + 0 + 3 + 2 + 1)
      ∧ s.inputs.env =
        List.replicate 1 true ++ [false] ++ List.replicate 0 false ++ List.replicate 3 true ++ List.replicate 2 false
          ++ [true] ++ [] :=
  ⟨by decide, by decide, noReset_of_nil _ rfl, rfl⟩

/-- P-6 and P-7: a constant input in its waiting phase, for any number of steps. -/
theorem witness_pulse_hang (n : Nat) (ph : Phase) :
    ∃ level, (ph, level) ∈ [(Phase.p1, true), (.p2, false), (.p3, true), (.p4, false)]
      ∧ (hanging ph level n).seq = .pulse .pin0 ph Counts.zero ∧ (hanging ph level n).noReset n
      ∧ (hanging ph level n).inputs.env = List.replicate n level ++ [] := by
  refine ⟨ph == .p1 || ph == .p3, ?_, rfl, noReset_of_nil n rfl, by simp [hanging, sampling]⟩
  cases ph <;> decide

/-- K2, K3, K4, K5: the values on both sides of both thresholds. -/
theorem witness_classify :
    (∀ w, (offering outputs w []).Offering w [] 2) ∧ field 0x00000000001EEF05#64 0 8 = 0x05#8
      ∧ field 0x00000000001EEF05#64 8 32 = 7919#32 ∧ field 0x00000000001EF005#64 8 32 = 7920#32
      ∧ field 0x000000000026C005#64 8 32 = 9920#32 ∧ field 0x000000000026C105#64 8 32 = 9921#32
      ∧ (0x000000000026C105#64 : Command) &&& 0xFFFFFF0000000000#64 = 0#64
      ∧ field 0x0000010000000005#64 0 8 = 0x05#8 ∧ (0x0000010000000005#64 : Command) &&& 0xFFFFFF0000000000#64 ≠ 0#64 := by
  refine ⟨fun w => outputs_offering w [] 2, ?_⟩
  decide

/-- A first and a later fault. -/
theorem witness_fault_log :
    (FaultCause.range, 4) ∈ [(FaultCause.badop, 1), (.rsvd, 2), (.badpin, 3), (.range, 4)]
      ∧ outputs.faults.valid = false ∧ (raiseFault .badop 0#64 outputs).faults.valid = true
      ∧ (raiseFault .badop 0#64 outputs).noReset 1
      ∧ run 1 (raiseFault .badop 0#64 outputs) = .next (after (raiseFault .badop 0#64 outputs)) :=
  ⟨by decide, rfl, rfl, noReset_of_nil 1 rfl, rfl⟩

theorem witness_legal_and_illegal : (Instr.pintest 5#3).wf = true ∧ (Instr.pintest 6#3).wf = false
    ∧ (Instr.fillrect 0#8 0#8 0#8 1#8 0#12).wf = false := by decide

/-- An ended run, also with idle offers left; not ended with a word left, nor while busy (EndedRunStaysEnded). -/
theorem witness_ended :
    outputs.ended = true ∧ State.ended { outputs with inputs := { outputs.inputs with offers := [none, none] } } = true
      ∧ waiting.ended = false ∧ (outputs.setSeq (.run (.wr .sck true) [])).ended = false ∧ outputs.noReset 3 :=
  ⟨by decide, by decide, by decide, by decide, outputs_noReset 3⟩

/-- A busy block about to be reset, and what it becomes takes no command and runs on. -/
theorem witness_reset :
    let s := resetting (outputs.setSeq (.pulse .pin0 .p2 Counts.zero)) [false]
    s.seq.busy = true ∧ s.inputs.rstIn = false :: [] ∧ step s = .next (after s)
      ∧ (after s).noReset 3 ∧ (∀ w, some w ∉ (after s).inputs.offers) ∧ run 3 (after s) = .next (after (after (after (after s)))) := by
  refine ⟨rfl, rfl, rfl, noReset_of_nil 3 rfl, ?_, rfl⟩
  intro w h
  cases h

/-- A state that meets the invariant and is not the reset state, and its step. -/
theorem witness_invariant :
    let s := State.reset.setSeq (Seq.ofList (frame true 0xA5#8))
    s.Inv ∧ step s = .next (after s) := by
  refine ⟨⟨by decide, by decide, by decide, by decide, 0, rfl, rfl⟩, rfl⟩

end Sys2Proof.Machine.Test
end

section
/-! PROOFS. The family `10_state.md`: what one step answers for each activity, what a busy step leaves as it is, the bits of
the host-visible registers, and that the read port's index plays no part in a step. -/

namespace Sys2Proof.Machine

/-! ### One step, by activity (R202, R700) -/

theorem step_of_reset {s : State} (h : s.activity = .reset) : step s = .next (resetStep s) := by
  simp [step, h]

theorem step_of_nothing {s : State} (h : s.activity = .nothing) : step s = .next (idleStep s) := by
  simp [step, h]

theorem step_of_accept_instr {s : State} {w : Command} {i : Instr} (h : s.activity = .accept w)
    (hw : decodeCommand w = .instr i) : step s = exec i (acceptState s) := by
  simp [step, h, hw]

theorem step_of_accept_badop {s : State} {w : Command} (h : s.activity = .accept w) (hw : decodeCommand w = .badop) :
    step s = .next (rejectStep .badop w s) := by
  simp [step, h, hw]

theorem step_of_accept_rsvd {s : State} {w : Command} (h : s.activity = .accept w) (hw : decodeCommand w = .rsvd) :
    step s = .next (rejectStep .rsvd w s) := by
  simp [step, h, hw]

theorem step_of_micro {s : State} {op : MicroOp} {rest : List MicroOp} (h : s.activity = .micro op rest) :
    step s = .next (microStep op rest s) := by
  simp [step, h]

theorem step_of_sample {s : State} {ch : Channel} {ph : Phase} {c : Counts} (h : s.activity = .sample ch ph c) :
    step s = .next (pulseStep ch ph c s) := by
  simp [step, h]

/-! ### Steps of a busy block (R115, R710) -/

/-- `BUSY = (SEQ != Idle)` (R115). -/
theorem Seq.busy_eq_bne_idle (q : Seq) : q.busy = (q != .idle) := by
  cases q <;> rfl

theorem microStep_keeps (op : MicroOp) (rest : List MicroOp) (s : State) :
    (microStep op rest s).inputs.offers = s.inputs.offers ∧ (microStep op rest s).faults = s.faults := by
  obtain ⟨-, hfaults, -, -, hoffers, -, -⟩ := perform_keeps op s.tick
  exact ⟨hoffers, hfaults⟩

/-- A sample of the pulse loop writes only `SEQ` and the READPULSE results (R502, R504). -/
theorem pulseAfter_keeps (ch : Channel) (ph : Phase) (c : Counts) (sample : Bool) (s : State) :
    (pulseAfter ch ph c sample s).inputs = s.inputs ∧ (pulseAfter ch ph c sample s).faults = s.faults := by
  unfold pulseAfter
  cases pulseNext ch ph c sample with
  | some q => exact ⟨rfl, rfl⟩
  | none => exact ⟨rfl, rfl⟩

theorem pulseStep_keeps (ch : Channel) (ph : Phase) (c : Counts) (s : State) :
    (pulseStep ch ph c s).inputs.offers = s.inputs.offers ∧ (pulseStep ch ph c s).faults = s.faults := by
  obtain ⟨env, draws, hlevel⟩ := level_frame (.pulse ch) s.tick
  obtain ⟨hinputs, hfaults⟩ :=
    pulseAfter_keeps ch ph c (level (.pulse ch) s.tick).1 (level (.pulse ch) s.tick).2
  rw [hlevel] at hinputs hfaults
  unfold pulseStep
  rw [hlevel, hinputs, hfaults]
  exact ⟨rfl, rfl⟩

/-- R710: a busy block takes no offer and records no fault. -/
theorem step_busy_keeps {s t : State} (hr : s.rstN = true) (hbusy : s.seq ≠ .idle) (h : step s = .next t) :
    t.inputs.offers = s.inputs.offers ∧ t.faults = s.faults := by
  match hq : s.seq with
  | .idle => exact absurd hq hbusy
  | .run op rest =>
    rw [step_of_micro (activity_micro hr hq)] at h
    cases h
    exact microStep_keeps op rest s
  | .pulse ch ph c =>
    rw [step_of_sample (activity_sample hr hq)] at h
    cases h
    exact pulseStep_keeps ch ph c s

/-! ### The bits of the registers (R107) -/

theorem flagAt_getLsbD {lo : Nat} (b : Bool) (n : Nat) (h : lo < 32) : (flagAt lo b).getLsbD n = (n == lo && b) := by
  by_cases hn : n = lo
  · subst hn
    cases b <;> simp [flagAt, h]
  · by_cases hlt : n < lo
    · simp [flagAt, hlt, hn]
    · have hpos : n - lo ≠ 0 := by omega
      simp [flagAt, hn, BitVec.getLsbD_ofBool, hpos]

theorem statusWord_getLsbD (busy tovfH tovfL valid : Bool) (n : Nat) :
    (statusWord busy tovfH tovfL valid).getLsbD n =
      ((n == 0 && busy) || (n == 1 && tovfH) || (n == 2 && tovfL) || (n == 3 && valid)) := by
  simp [statusWord, flagAt_getLsbD]

/-- A field of a register: the bits of `v` from bit `lo` on, and no others. -/
theorem setWidth_shiftLeft_getLsbD {len : Nat} (v : BitVec len) {lo : Nat} (n : Nat) (h : lo + len ≤ 32) :
    (v.setWidth 32 <<< lo).getLsbD n = (decide (lo ≤ n) && v.getLsbD (n - lo)) := by
  by_cases hlt : n < lo
  · simp [hlt, Nat.not_le.mpr hlt]
  · by_cases hin : n - lo < len
    · have hn : n < 32 := by omega
      simp [hlt, hn, Nat.not_lt.mp hlt]
    · simp [BitVec.getLsbD_of_ge v (n - lo) (Nat.not_lt.mp hin)]

theorem setWidth_getLsbD {len : Nat} (v : BitVec len) (n : Nat) (h : len ≤ 32) :
    (v.setWidth 32).getLsbD n = (decide (n < len) && v.getLsbD n) := by
  by_cases hin : n < len
  · simp [hin, Nat.lt_of_lt_of_le hin h]
  · simp [BitVec.getLsbD_of_ge v n (Nat.not_lt.mp hin)]

theorem faultInfoWord_getLsbD (f : FaultLog) (n : Nat) :
    (faultInfoWord f).getLsbD n =
      ((decide (n < 3) && f.cause.getLsbD n) || (decide (4 ≤ n) && f.seen.getLsbD (n - 4))) := by
  rw [faultInfoWord, BitVec.getLsbD_or, setWidth_getLsbD _ _ (by decide), setWidth_shiftLeft_getLsbD _ _ (by decide)]

theorem classWord_getLsbD (code : BitVec 2) (n : Nat) :
    (classWord code).getLsbD n = (decide (n < 2) && code.getLsbD n) :=
  setWidth_getLsbD code n (by decide)

theorem nibbleOf_getLsbD (sck sda cs rst : Bool) (n : Nat) :
    (nibbleOf sck sda cs rst).getLsbD n = ((n == 0 && sck) || (n == 1 && sda) || (n == 2 && cs) || (n == 3 && rst)) := by
  match n with
  | 0 => revert sck sda cs rst; decide
  | 1 => revert sck sda cs rst; decide
  | 2 => revert sck sda cs rst; decide
  | 3 => revert sck sda cs rst; decide
  | k + 4 => simp [BitVec.getLsbD_of_ge]

theorem modeBit_eq_beq_out (m : PinMode) : modeBit m = (m == .out) := by
  cases m <;> rfl

/-- A place counted from bit `lo` on: the test the table writes as a bit number. -/
theorem decide_le_and_sub_beq (lo n k : Nat) : (decide (lo ≤ n) && n - lo == k) = (n == lo + k) := by
  rw [Bool.eq_iff_iff]
  simp only [Bool.and_eq_true, decide_eq_true_eq, beq_iff_eq]
  omega

theorem pinsWord_getLsbD (p : Pins) (pinbit : Bool) (n : Nat) :
    (pinsWord p pinbit).getLsbD n =
      ((n == 0 && p.dir.sck == .out) || (n == 1 && p.dir.sda == .out)
        || (n == 2 && p.dir.cs == .out) || (n == 3 && p.dir.rst == .out)
        || (n == 8 && p.lat.sck) || (n == 9 && p.lat.sda) || (n == 10 && p.lat.cs)
        || (n == 11 && p.lat.rst) || (n == 16 && pinbit)) := by
  have hdir : ((dirNibble p.dir).setWidth 32).getLsbD n = (dirNibble p.dir).getLsbD n := by
    rw [setWidth_getLsbD _ _ (by decide)]
    by_cases hn : n < 4
    · simp [hn]
    · simp [BitVec.getLsbD_of_ge _ _ (Nat.not_lt.mp hn)]
  rw [pinsWord, BitVec.getLsbD_or, BitVec.getLsbD_or, hdir, setWidth_shiftLeft_getLsbD _ _ (by decide),
    flagAt_getLsbD _ _ (by decide), dirNibble, latNibble, nibbleOf_getLsbD, nibbleOf_getLsbD]
  simp only [Bool.and_or_distrib_left, ← Bool.and_assoc, decide_le_and_sub_beq, modeBit_eq_beq_out, Bool.or_assoc]

theorem readReg_reserved (s : State) {idx : BitVec 4} (h : 8 ≤ idx.toNat) : s.readReg idx = 0#32 := by
  unfold State.readReg
  split
  case h_9 => rfl
  all_goals omega

/-! ### The registers and directions after reset (R118) -/

theorem reset_dir (p : OutPin) : State.reset.pins.dir.get p = .inp :=
  PerPin.get_all PinMode.inp p

theorem reset_readReg {idx : BitVec 4} (h : idx ≠ 7#4) : State.reset.readReg idx = 0#32 := by
  revert idx
  decide

/-- With every pin an input and PINBIT 0, `PINS` shows the latches and nothing else (R113). -/
theorem pinsWord_inputs_mask (lat : PerPin Bool) :
    pinsWord { lat := lat, dir := PerPin.all .inp } false &&& 0xFFFFF0FF#32 = 0#32 := by
  obtain ⟨sck, sda, cs, rst⟩ := lat
  revert sck sda cs rst
  decide

/-! ### The index on the read port (R101, R114) -/

/-- `s` with another index on the register read port. -/
def State.withRdIdx (s : State) (idx : BitVec 4) : State := { s with inputs := { s.inputs with rdIdx := idx } }

@[simp] theorem State.withRdIdx_rdData (s : State) (idx : BitVec 4) : (s.withRdIdx idx).rdData = s.readReg idx := rfl

@[simp] theorem State.withRdIdx_activity (s : State) (idx : BitVec 4) : (s.withRdIdx idx).activity = s.activity := rfl

@[simp] theorem State.withRdIdx_tick (s : State) (idx : BitVec 4) : (s.withRdIdx idx).tick = s.tick.withRdIdx idx := rfl

theorem drawEnv_withRdIdx (p : Pin) (s : State) (idx : BitVec 4) :
    drawEnv p (s.withRdIdx idx) = ((drawEnv p s).1, (drawEnv p s).2.withRdIdx idx) := by
  cases h : s.inputs.env with
  | nil => rw [drawEnv_free p h, drawEnv_free p (s := s.withRdIdx idx) h]; rfl
  | cons b rest => rw [drawEnv_supplied p h, drawEnv_supplied p (s := s.withRdIdx idx) h]; rfl

theorem level_withRdIdx (p : Pin) (s : State) (idx : BitVec 4) :
    level p (s.withRdIdx idx) = ((level p s).1, (level p s).2.withRdIdx idx) := by
  cases p with
  | pulse ch => exact drawEnv_withRdIdx _ s idx
  | out q =>
    have hpins : (s.withRdIdx idx).pins = s.pins := rfl
    simp only [level, hpins]
    cases s.pins.drive q with
    | some b => rfl
    | none => exact drawEnv_withRdIdx _ s idx

theorem perform_withRdIdx (op : MicroOp) (s : State) (idx : BitVec 4) :
    perform op (s.withRdIdx idx) = (perform op s).withRdIdx idx := by
  cases op with
  | tst p => simp only [perform, level_withRdIdx]; rfl
  | wr p v => rfl
  | dirw p m => rfl
  | dly n => rfl
  | setclass c => rfl

theorem microStep_withRdIdx (op : MicroOp) (rest : List MicroOp) (s : State) (idx : BitVec 4) :
    microStep op rest (s.withRdIdx idx) = (microStep op rest s).withRdIdx idx := by
  simp only [microStep, State.withRdIdx_tick, perform_withRdIdx]
  rfl

theorem pulseAfter_withRdIdx (ch : Channel) (ph : Phase) (c : Counts) (sample : Bool) (s : State) (idx : BitVec 4) :
    pulseAfter ch ph c sample (s.withRdIdx idx) = (pulseAfter ch ph c sample s).withRdIdx idx := by
  unfold pulseAfter
  cases pulseNext ch ph c sample with
  | some q => rfl
  | none => rfl

theorem pulseStep_withRdIdx (ch : Channel) (ph : Phase) (c : Counts) (s : State) (idx : BitVec 4) :
    pulseStep ch ph c (s.withRdIdx idx) = (pulseStep ch ph c s).withRdIdx idx := by
  simp only [pulseStep, State.withRdIdx_tick, level_withRdIdx, pulseAfter_withRdIdx]

/-- What an instruction's acceptance starts or faults on is told by the instruction alone, whatever the state
(R202, R310). -/
theorem exec_answers_uniformly (i : Instr) : ∃ a : Acceptance, ∀ s, exec i s = .next (a.result i s) := by
  cases i with
  | fillrect x y w h color =>
    cases hr : rectInRange x y w h with
    | true => exact ⟨.ops (expandFillrect x y w h color), fun s => by simp [exec, execFillrect, hr]; rfl⟩
    | false => exact ⟨.faults .range, fun s => by simp [exec, execFillrect, hr]; rfl⟩
  | pinset pin =>
    cases hp : outPin pin with
    | some p => exact ⟨.ops [.wr p true], fun s => by simp [exec, execPinset, hp]; rfl⟩
    | none => exact ⟨.faults .badpin, fun s => by simp [exec, execPinset, hp]; rfl⟩
  | pinclr pin =>
    cases hp : outPin pin with
    | some p => exact ⟨.ops [.wr p false], fun s => by simp [exec, execPinclr, hp]; rfl⟩
    | none => exact ⟨.faults .badpin, fun s => by simp [exec, execPinclr, hp]; rfl⟩
  | pintest pin =>
    cases hp : anyPin pin with
    | some p => exact ⟨.ops [.tst p], fun s => by simp [exec, execPintest, hp]; rfl⟩
    | none => exact ⟨.faults .badpin, fun s => by simp [exec, execPintest, hp]; rfl⟩
  | pindir pin mode =>
    cases hp : outPin pin with
    | some p => exact ⟨.ops [.dirw p mode], fun s => by simp [exec, execPindir, hp]; rfl⟩
    | none => exact ⟨.faults .badpin, fun s => by simp [exec, execPindir, hp]; rfl⟩
  | _ => exact ⟨.starts _, fun s => rfl⟩

theorem Acceptance.result_withRdIdx (a : Acceptance) (i : Instr) (s : State) (idx : BitVec 4) :
    a.result i (s.withRdIdx idx) = (a.result i s).withRdIdx idx := by
  cases a with
  | starts q => rfl
  | faults c => rfl

theorem exec_withRdIdx {i : Instr} {s t : State} (idx : BitVec 4) (h : exec i s = .next t) :
    exec i (s.withRdIdx idx) = .next (t.withRdIdx idx) := by
  obtain ⟨a, ha⟩ := exec_answers_uniformly i
  rw [ha] at h
  cases h
  rw [ha, a.result_withRdIdx]

/-- R114: in every kind of step, the index on the read port stands and plays no part. -/
theorem step_withRdIdx {s t : State} (idx : BitVec 4) (h : step s = .next t) :
    step (s.withRdIdx idx) = .next (t.withRdIdx idx) := by
  match ha : s.activity with
  | .reset =>
    rw [step_of_reset ha] at h
    cases h
    exact step_of_reset (s := s.withRdIdx idx) ha
  | .nothing =>
    rw [step_of_nothing ha] at h
    cases h
    exact step_of_nothing (s := s.withRdIdx idx) ha
  | .micro op rest =>
    rw [step_of_micro ha] at h
    cases h
    rw [step_of_micro (s := s.withRdIdx idx) ha, microStep_withRdIdx]
  | .sample ch ph c =>
    rw [step_of_sample ha] at h
    cases h
    rw [step_of_sample (s := s.withRdIdx idx) ha, pulseStep_withRdIdx]
  | .accept w =>
    match hw : decodeCommand w with
    | .instr i =>
      rw [step_of_accept_instr ha hw] at h
      rw [step_of_accept_instr (s := s.withRdIdx idx) ha hw]
      exact exec_withRdIdx idx h
    | .badop =>
      rw [step_of_accept_badop ha hw] at h
      cases h
      exact step_of_accept_badop (s := s.withRdIdx idx) ha hw
    | .rsvd =>
      rw [step_of_accept_rsvd ha hw] at h
      cases h
      exact step_of_accept_rsvd (s := s.withRdIdx idx) ha hw

/-! ### The obligations -/

/-- Settles O2: each register is put together from its fields, read here bit by bit. -/
theorem registerFieldsReadAsTheTableSays : Obligations.RegisterFieldsReadAsTheTableSays := by
  refine ⟨fun s => ⟨fun n => ?status, faultInfoWord_getLsbD s.faults, rfl, rfl, readReg_high s, readReg_low s,
    classWord_getLsbD s.classCode, pinsWord_getLsbD s.pins s.pinbit, fun idx => readReg_reserved s⟩,
    fun idx => reset_readReg, pinsWord_inputs_mask _⟩
  case status => rw [readReg_status, statusWord_getLsbD, Seq.busy_eq_bne_idle]

/-- Settles O3: every kind of step commutes with a change of the index on the read port. -/
theorem registerReadsDoNotDisturbSteps : Obligations.RegisterReadsDoNotDisturbSteps :=
  fun _ t idx h => ⟨step_withRdIdx idx h, t.withRdIdx_rdData idx, readReg_reserved t⟩

/-- Settles O4: a busy step is a micro-operation or a pulse sample, and neither touches the offers or the fault record. -/
theorem busyBlockHoldsTheOfferedCommand : Obligations.BusyBlockHoldsTheOfferedCommand := by
  refine ⟨fun s => ⟨?busyBit, ?ready⟩, fun s t hnr hready hstep => ?held⟩
  case busyBit => rw [readReg_status, statusWord_busy, Seq.busy_eq_bne_idle]
  case ready => rw [State.cmdReady, Seq.busy_eq_bne_idle, bne, Bool.not_not]
  case held =>
    have hbusy : s.seq ≠ .idle := fun hidle => by simp [State.cmdReady, hidle, Seq.busy] at hready
    exact step_busy_keeps (noReset_rstN hnr) hbusy hstep

/-- Settles O5: the reset values, the latches left out. -/
theorem resetStateHasTheListedValues : Obligations.ResetStateHasTheListedValues := by
  refine ⟨rfl, reset_dir, fun idx hidx => reset_readReg ?_, rfl, rfl, fun p => Pins.drive_inp (reset_dir p)⟩
  rintro rfl
  exact absurd hidx (by decide)

end Sys2Proof.Machine
end

section
/-! PROOFS. The family `20_memory.md`: what the step of an idle, a running and a sampling block leaves, that an instruction
with legal operands starts the sequencer, and the five micro-operations. -/

namespace Sys2Proof.Machine

/-! ### The steps in the words of the statements (R202) -/

/-- With nothing left to offer, an idle step passes on `rst_n` and nothing else. -/
theorem idleStep_of_no_offers {s : State} (ho : s.inputs.offers = []) : idleStep s = s.pass 1 := by
  simp [idleStep, State.tick, State.takeOffer, State.pass, ho]

/-- An idle step uses up an offer of `cmd_valid = 0`. -/
theorem idleStep_of_none_offered {s : State} {later : List (Option Command)} (ho : s.inputs.offers = none :: later) :
    idleStep s = s.accepted later := by
  simp [idleStep, State.tick, State.takeOffer, State.accepted, ho]

theorem microStep_eq_perform_pass (op : MicroOp) (rest : List MicroOp) (s : State) :
    microStep op rest s = (perform op (s.pass 1)).setSeq (Seq.ofList rest) := by
  rw [microStep, State.tick_eq_pass]

theorem pulseStep_eq_pulseAfter_pass (ch : Channel) (ph : Phase) (c : Counts) (s : State) :
    pulseStep ch ph c s =
      pulseAfter ch ph c (level (.pulse ch) (s.pass 1)).1 (level (.pulse ch) (s.pass 1)).2 := by
  rw [pulseStep, State.tick_eq_pass]

/-! ### Legal operands (R305): the tests of `WellFormed.lean` are those of the meanings -/

theorem outPin_isSome (p : PinIndex) : (outPin p).isSome = p.isOutput := by
  revert p
  decide

theorem anyPin_isSome (p : PinIndex) : (anyPin p).isSome = p.isPin := by
  revert p
  decide

theorem outPin_of_isOutput {p : PinIndex} (h : p.isOutput = true) : ∃ q, outPin p = some q :=
  Option.isSome_iff_exists.mp ((outPin_isSome p).trans h)

theorem anyPin_of_isPin {p : PinIndex} (h : p.isPin = true) : ∃ q, anyPin p = some q :=
  Option.isSome_iff_exists.mp ((anyPin_isSome p).trans h)

theorem rectInRange_eq_rectOk (x y w h : Byte) : rectInRange x y w h = rectOk x y w h := by
  simp only [rectInRange, rectOk, coordOk, extentOk, Nat.lt_iff_add_one_le, Bool.decide_and, Bool.and_assoc]

/-! ### No expansion is empty (R202) -/

theorem Seq.ofList_ne_idle {ops : List MicroOp} (h : ops ≠ []) : Seq.ofList ops ≠ .idle := by
  cases ops with
  | nil => exact absurd rfl h
  | cons op rest => rw [Seq.ofList_cons]; exact Seq.noConfusion

theorem frameOps_ne_nil (f : Frame) : frameOps f ≠ [] := by
  simp [frameOps]

theorem expandInitdisp_ne_nil (settle : Nat) (payload : Byte → List Byte) : expandInitdisp settle payload ≠ [] := by
  simp [expandInitdisp, initPreamble]

/-- A FILLRECT sends at least the three command frames, also when it has no pixel pair (R461, R464). -/
theorem expandFillrect_ne_nil (x y w h : Byte) (color : Color) : expandFillrect x y w h color ≠ [] := by
  simp [expandFillrect, framesOps, fillFrames, commandFrames, frameOps_ne_nil]

/-! ### A legal command always has something to run (R202, R305) -/

/-- The meaning of `i` puts the sequencer at one position that is not `Idle`, and does nothing else. -/
def StartsBusy (i : Instr) : Prop :=
  ∃ q : Seq, q ≠ .idle ∧ ∀ s, exec i s = .next (s.setSeq q)

theorem startsBusy_of_ops {i : Instr} {ops : List MicroOp} (hne : ops ≠ []) (h : ∀ s, exec i s = start ops s) :
    StartsBusy i :=
  ⟨Seq.ofList ops, Seq.ofList_ne_idle hne, h⟩

theorem startsBusy_of_frame {i : Instr} {dc : Bool} {b : Byte} (h : ∀ s, exec i s = start (frame dc b) s) :
    StartsBusy i :=
  startsBusy_of_ops (frameOps_ne_nil _) h

/-- Only FILLRECT and the pin commands can fault on their operands; of the others, all but INITDISP, READPULSE, CLASSIFY and
CLEARSCR send one frame. -/
theorem startsBusy_of_wf {i : Instr} (hwf : i.wf = true) : StartsBusy i := by
  cases i with
  | initdisp => exact startsBusy_of_ops (expandInitdisp_ne_nil _ _) fun _ => rfl
  | fillrect x y w h color =>
    have hr : rectInRange x y w h = true := (rectInRange_eq_rectOk x y w h).trans hwf
    exact startsBusy_of_ops (expandFillrect_ne_nil x y w h color) fun s => if_pos hr
  | clearscr => exact startsBusy_of_ops (expandFillrect_ne_nil _ _ _ _ _) fun _ => rfl
  | readpulse ch => exact ⟨.pulse ch .p1 Counts.zero, Seq.noConfusion, fun _ => rfl⟩
  | classify value => exact startsBusy_of_ops (List.cons_ne_nil _ _) fun _ => rfl
  | pinset pin =>
    obtain ⟨p, hp⟩ := outPin_of_isOutput hwf
    exact startsBusy_of_ops (List.cons_ne_nil (.wr p true) []) fun s => by simp [exec, execPinset, hp]
  | pinclr pin =>
    obtain ⟨p, hp⟩ := outPin_of_isOutput hwf
    exact startsBusy_of_ops (List.cons_ne_nil (.wr p false) []) fun s => by simp [exec, execPinclr, hp]
  | pintest pin =>
    obtain ⟨p, hp⟩ := anyPin_of_isPin hwf
    exact startsBusy_of_ops (List.cons_ne_nil (.tst p) []) fun s => by simp [exec, execPintest, hp]
  | pindir pin mode =>
    obtain ⟨p, hp⟩ := outPin_of_isOutput hwf
    exact startsBusy_of_ops (List.cons_ne_nil (.dirw p mode) []) fun s => by simp [exec, execPindir, hp]
  | _ => exact startsBusy_of_frame fun _ => rfl

/-- R202: a command with legal operands leaves the block busy. -/
theorem exec_busy_of_wf {i : Instr} {s t : State} (hwf : i.wf = true) (h : exec i s = .next t) : t.seq ≠ .idle := by
  obtain ⟨q, hq, hexec⟩ := startsBusy_of_wf hwf
  rw [hexec s] at h
  cases h
  exact hq

/-! ### The obligations -/

/-- Settles O7: the position and the offers tell the activity of the step, and each kind of step is its operation on a state
whose input ports have moved on; no legal command has an empty expansion. -/
theorem oneStepDoesOneOfTheListedThings : Obligations.OneStepDoesOneOfTheListedThings := by
  intro s hnr
  have hr : s.rstN = true := noReset_rstN hnr
  refine ⟨fun hq ho => ?nothing, fun later hq ho => ?noneOffered, fun w later hq ho => ?acceptance,
    fun op rest hq => ?micro, fun ch ph c hq => ?sample, fun _ _ => exec_busy_of_wf⟩
  case nothing =>
    rw [step_of_nothing (activity_nothing hr hq (by simp [ho])), idleStep_of_no_offers ho]
  case noneOffered =>
    rw [step_of_nothing (activity_nothing hr hq (by simp [ho])), idleStep_of_none_offered ho]
  case acceptance =>
    have ha : s.activity = .accept w := activity_accept hr hq ho
    rw [← acceptState_eq ho]
    exact ⟨fun i => step_of_accept_instr ha, step_of_accept_badop ha, step_of_accept_rsvd ha⟩
  case micro => rw [step_of_micro (activity_micro hr hq), microStep_eq_perform_pass]
  case sample => rw [step_of_sample (activity_sample hr hq), pulseStep_eq_pulseAfter_pass]

/-- Settles O8: each micro-operation is its named updates, and a named update writes its own field only. -/
theorem microOperationsDoWhatPerformSays : Obligations.MicroOperationsDoWhatPerformSays :=
  fun _ => ⟨fun _ _ => rfl, fun _ _ => rfl, fun _ => rfl, fun _ => rfl, fun _ => rfl⟩

end Sys2Proof.Machine
end

section
/-! PROOFS. The family `30_encoding.md`: which words the decoder rejects and with which cause, in the spec's own list of `OP`
values and masks, and the rows of the opcode table. -/

namespace Sys2Proof

/-! ### The opcode map and the reserved masks (R303, R310) -/

/-- The nine `OP` values of R303 are the codes of the nine commands. -/
theorem Op.exists_code_iff (b : Byte) :
    (∃ op : Op, b = op.code) ↔ b.toNat ∈ [0x01, 0x02, 0x03, 0x04, 0x05, 0x08, 0x09, 0x0A, 0x0B] := by
  constructor
  · rintro ⟨op, rfl⟩
    cases op <;> decide
  · intro h
    have hsome : ∀ b : Byte, b.toNat ∈ [0x01, 0x02, 0x03, 0x04, 0x05, 0x08, 0x09, 0x0A, 0x0B] →
        (Op.ofByte b).isSome = true := by decide
    obtain ⟨op, hop⟩ := Option.isSome_iff_exists.mp (hsome b h)
    exact ⟨op, Op.ofByte_eq_some hop⟩

/-- The masks of R310 by `OP` value are the decoder's masks by command. -/
theorem reservedMask_code (op : Op) : Machine.reservedMask op.code.toNat = op.rsvd := by
  cases op <;> rfl

/-- A legal `OP` value with a condition on its reserved mask is a command with that condition on its mask. -/
theorem Op.exists_code_and_rsvd_iff (b : Byte) (P : Command → Prop) :
    (∃ op : Op, b = op.code ∧ P op.rsvd)
      ↔ b.toNat ∈ [0x01, 0x02, 0x03, 0x04, 0x05, 0x08, 0x09, 0x0A, 0x0B] ∧ P (Machine.reservedMask b.toNat) := by
  rw [← Op.exists_code_iff]
  constructor
  · rintro ⟨op, rfl, hP⟩
    exact ⟨⟨op, rfl⟩, by rwa [reservedMask_code]⟩
  · rintro ⟨⟨op, rfl⟩, hP⟩
    exact ⟨op, rfl, by rwa [reservedMask_code] at hP⟩

/-! ### The three outcomes of decoding (R303, R304, R310) -/

theorem decodeCommand_of_no_code {w : Command} (h : ∀ op : Op, opOf w ≠ op.code) : decodeCommand w = .badop := by
  unfold decodeCommand
  match hop : Op.ofByte (opOf w) with
  | none => rfl
  | some op => exact absurd (Op.ofByte_eq_some hop) (h op)

theorem decodeCommand_of_reserved {w : Command} {op : Op} (ho : opOf w = op.code) (hr : w &&& op.rsvd ≠ 0#64) :
    decodeCommand w = .rsvd := by
  simp [decodeCommand, ho, hr]

/-- What a word decodes to, and when. -/
theorem decodeCommand_cases (w : Command) :
    ((∀ op : Op, opOf w ≠ op.code) ∧ decodeCommand w = .badop)
      ∨ (∃ op : Op, opOf w = op.code ∧ w &&& op.rsvd ≠ 0#64 ∧ decodeCommand w = .rsvd)
      ∨ (∃ op : Op, opOf w = op.code ∧ w &&& op.rsvd = 0#64 ∧ decodeCommand w = .instr (op.read w)) := by
  by_cases hcode : ∃ op : Op, opOf w = op.code
  · obtain ⟨op, ho⟩ := hcode
    by_cases hr : w &&& op.rsvd = 0#64
    · exact .inr (.inr ⟨op, ho, hr, decodeCommand_of ho hr⟩)
    · exact .inr (.inl ⟨op, ho, hr, decodeCommand_of_reserved ho hr⟩)
  · have hno : ∀ op : Op, opOf w ≠ op.code := not_exists.mp hcode
    exact .inl ⟨hno, decodeCommand_of_no_code hno⟩

/-- R303: BADOP exactly if `OP` is none of the nine values. -/
theorem decodeCommand_eq_badop_iff (w : Command) :
    decodeCommand w = .badop ↔ (opOf w).toNat ∉ [0x01, 0x02, 0x03, 0x04, 0x05, 0x08, 0x09, 0x0A, 0x0B] := by
  rw [← Op.exists_code_iff, not_exists]
  refine ⟨fun hd => ?_, decodeCommand_of_no_code⟩
  obtain ⟨hno, -⟩ | ⟨op, -, -, hd'⟩ | ⟨op, -, -, hd'⟩ := decodeCommand_cases w
  · exact hno
  · cases hd.symm.trans hd'
  · cases hd.symm.trans hd'

/-- R304: RSVD exactly if `OP` is legal and a reserved bit of it is 1. -/
theorem decodeCommand_eq_rsvd_iff (w : Command) :
    decodeCommand w = .rsvd ↔
      (opOf w).toNat ∈ [0x01, 0x02, 0x03, 0x04, 0x05, 0x08, 0x09, 0x0A, 0x0B]
        ∧ w &&& Machine.reservedMask (opOf w).toNat ≠ 0#64 := by
  rw [← Op.exists_code_and_rsvd_iff (opOf w) (fun m => w &&& m ≠ 0#64)]
  refine ⟨fun hd => ?_, fun ⟨_, ho, hr⟩ => decodeCommand_of_reserved ho hr⟩
  obtain ⟨-, hd'⟩ | ⟨op, ho, hr, -⟩ | ⟨op, -, -, hd'⟩ := decodeCommand_cases w
  · cases hd.symm.trans hd'
  · exact ⟨op, ho, hr⟩
  · cases hd.symm.trans hd'

/-- A word is an instruction exactly if `OP` is legal and its reserved bits are 0. -/
theorem exists_decodeCommand_eq_instr_iff (w : Command) :
    (∃ i, decodeCommand w = .instr i) ↔
      (opOf w).toNat ∈ [0x01, 0x02, 0x03, 0x04, 0x05, 0x08, 0x09, 0x0A, 0x0B]
        ∧ w &&& Machine.reservedMask (opOf w).toNat = 0#64 := by
  rw [← Op.exists_code_and_rsvd_iff (opOf w) (fun m => w &&& m = 0#64)]
  constructor
  · rintro ⟨i, hd⟩
    obtain ⟨op, ho, hr, -⟩ := decodeCommand_instr hd
    exact ⟨op, ho, hr⟩
  · rintro ⟨op, ho, hr⟩
    exact ⟨op.read w, decodeCommand_of ho hr⟩

/-! ### The rows of the opcode table (R301) -/

theorem field_and {n : Nat} (a b : BitVec n) (lo len : Nat) :
    field (a &&& b) lo len = field a lo len &&& field b lo len := by
  ext i hi
  simp [field]

/-- The mask of a row: its `OP` byte and its reserved bits. -/
def Op.mask (op : Op) : Command := op.rsvd ||| 0xFF#64

theorem Op.mask_opByte (op : Op) : field op.mask 0 8 = 0xFF#8 := by
  cases op <;> decide

theorem Op.mask_and_rsvd (op : Op) : op.mask &&& op.rsvd = op.rsvd := by
  cases op <;> decide

/-- A word that matches a row under the row's mask has the row's `OP`. -/
theorem opOf_of_row {w : Command} {op : Op} (h : w &&& op.mask = place 0 op.code) : opOf w = op.code := by
  calc opOf w = field w 0 8 &&& field op.mask 0 8 := by rw [op.mask_opByte]; exact BitVec.and_allOnes.symm
    _ = field (place 0 op.code) 0 8 := by rw [← field_and, h]
    _ = op.code := field_place_same 0 op.code (by decide)

/-- A word that matches a row under the row's mask has 0 in every reserved bit. -/
theorem and_rsvd_of_row {w : Command} {op : Op} (h : w &&& op.mask = place 0 op.code) : w &&& op.rsvd = 0#64 := by
  rw [← op.mask_and_rsvd, ← BitVec.and_assoc, h, Laws.code_and_rsvd]

/-- R301: a word that matches a row under the row's mask is that command, with the fields where they stand. -/
theorem decodeCommand_of_row {w : Command} (op : Op) (h : w &&& op.mask = place 0 op.code) :
    decodeCommand w = .instr (op.read w) :=
  decodeCommand_of (opOf_of_row h) (and_rsvd_of_row h)

namespace Machine

/-! ### The obligations -/

/-- Settles O11: the three outcomes of decoding exclude each other, and acceptance raises the fault of a rejection. -/
theorem illegalOpcodesAndReservedBitsAreRejected : Obligations.IllegalOpcodesAndReservedBitsAreRejected := by
  refine fun w => ⟨decodeCommand_eq_badop_iff w, decodeCommand_eq_rsvd_iff w, exists_decodeCommand_eq_instr_iff w,
    fun s later ⟨hnr, hidle, hoffers⟩ => ?_⟩
  have ha : s.activity = .accept w := activity_accept (noReset_rstN hnr) hidle hoffers
  rw [← acceptState_eq hoffers]
  exact ⟨fun hop => step_of_accept_badop ha ((decodeCommand_eq_badop_iff w).mpr hop),
    fun hop hr => step_of_accept_rsvd ha ((decodeCommand_eq_rsvd_iff w).mpr ⟨hop, hr⟩)⟩

/-- Settles O12: each row's mask is the `OP` byte with the row's reserved bits, and its match is its code. -/
theorem opcodeTableRowsDecodeWithTheirFields : Obligations.OpcodeTableRowsDecodeWithTheirFields :=
  fun _ => ⟨decodeCommand_of_row .txframe, decodeCommand_of_row .initdisp, decodeCommand_of_row .fillrect,
    decodeCommand_of_row .readpulse, decodeCommand_of_row .classify, decodeCommand_of_row .pinset,
    decodeCommand_of_row .pinclr, decodeCommand_of_row .pintest, decodeCommand_of_row .pindir⟩

end Machine

end Sys2Proof
end

section
/-! PROOFS. The family `40_register_io.md`: a word that decodes is its instruction's command word, what the steps of a command
do that faults on its operands or expands into one micro-operation, and the four pin commands. -/

namespace Sys2Proof

/-! ### A decoded word is its instruction's command word (R301, R304) -/

/-- A field put back where it was read is the word under the mask of the field's bits. -/
theorem place_field (w : Command) (lo len : Nat) :
    place lo (field w lo len) = w &&& place lo (BitVec.allOnes len) := by
  refine BitVec.eq_of_getLsbD_eq fun i hi => ?_
  rw [BitVec.getLsbD_and, place_getLsbD, place_getLsbD, field_getLsbD, BitVec.getLsbD_allOnes]
  by_cases hlo : i < lo
  · simp [hlo]
  · rw [Nat.add_sub_cancel' (Nat.le_of_not_lt hlo)]
    simp [hi, hlo, Bool.and_comm]

theorem ofBool_getLsbD (w : Command) (i : Nat) : BitVec.ofBool (w.getLsbD i) = field w i 1 := by
  ext j hj
  obtain rfl : j = 0 := Nat.lt_one_iff.mp hj
  simp [field]

/-- The bits that the table of R301 gives a command: `OP` and its fields. -/
def Op.usedBits (op : Op) : Command := ~~~op.rsvd

/-- A word with 0 in every reserved bit has all its ones among the bits in use. -/
theorem and_usedBits {w : Command} {op : Op} (hr : w &&& op.rsvd = 0#64) : w &&& op.usedBits = w := by
  have hall : op.usedBits ||| op.rsvd = BitVec.allOnes 64 := by cases op <;> decide
  calc w &&& op.usedBits = (w &&& op.usedBits) ||| (w &&& op.rsvd) := by rw [hr, BitVec.or_zero]
    _ = w := by rw [← BitVec.and_or_distrib_left, hall, BitVec.and_allOnes]

/-- `OP` and the fields that a word is read as cover the bits in use. -/
theorem commandWord_read {w : Command} {op : Op} (ho : opOf w = op.code) :
    commandWord (op.read w) = w &&& op.usedBits := by
  have hcode : place 0 op.code = w &&& place 0 (BitVec.allOnes 8) := by rw [← ho, opOf, place_field]
  cases op <;>
    simp only [Op.read, commandWord, txframeWord, fillrectWord, pinWord, pinField, modeBit_modeOf, channelBit_channelOf,
      ofBool_getLsbD, place_field, hcode, ← BitVec.and_or_distrib_left] <;> rfl

/-- The word that an operand fault records is the word that was offered: no bit of it is dropped (R310, R602). -/
theorem commandWord_read_of_clear {w : Command} {op : Op} (ho : opOf w = op.code) (hr : w &&& op.rsvd = 0#64) :
    commandWord (op.read w) = w := by
  rw [commandWord_read ho, and_usedBits hr]

namespace Machine

/-! ### A command from its word on (R202, R310) -/

section Offered
variable {s : State} {w : Command} {later : List (Option Command)} {n : Nat} {op : Op}

theorem activity_of_offering (hs : s.Offering w later (n + 1)) : s.activity = .accept w :=
  activity_accept (noReset_rstN hs.noReset) hs.idle hs.offers

/-- R304: a reserved bit of the command is the fault RSVD. -/
theorem step_of_reserved (hs : s.Offering w later (n + 1)) (ho : opOf w = op.code) (hr : w &&& op.rsvd ≠ 0#64) :
    step s = .next (raiseFault .rsvd w (s.accepted later)) := by
  rw [step_of_accept_rsvd (activity_of_offering hs) (decodeCommand_of_reserved ho hr), rejectStep, acceptState_eq hs.offers]

theorem step_of_read (hs : s.Offering w later (n + 1)) (ho : opOf w = op.code) (hr : w &&& op.rsvd = 0#64) :
    step s = exec (op.read w) (s.accepted later) := by
  rw [step_of_accept_instr (activity_of_offering hs) (decodeCommand_of ho hr), acceptState_eq hs.offers]

/-- A command whose meaning is an operand fault raises it with the offered word, and the block stays idle. -/
theorem accept_of_takeFault {c : FaultCause} (hs : s.Offering w later (n + 1)) (ho : opOf w = op.code)
    (hr : w &&& op.rsvd = 0#64) (hexec : ∀ t, exec (op.read w) t = takeFault c (op.read w) t) :
    exec (op.read w) (s.accepted later) = .next (raiseFault c w (s.accepted later))
      ∧ step s = .next (raiseFault c w (s.accepted later)) := by
  have hfault : exec (op.read w) (s.accepted later) = .next (raiseFault c w (s.accepted later)) := by
    rw [hexec, takeFault, commandWord_read_of_clear ho hr]
  exact ⟨hfault, (step_of_read hs ho hr).trans hfault⟩

/-- A command that expands into one micro-operation performs it in the second step and is then completed (R202, R400). -/
theorem accept_of_start_one {m : MicroOp} (hs : s.Offering w later 2) (ho : opOf w = op.code)
    (hr : w &&& op.rsvd = 0#64) (hexec : ∀ t, exec (op.read w) t = start [m] t) :
    exec (op.read w) (s.accepted later) = .next ((s.accepted later).setSeq (.run m []))
      ∧ step s = .next ((s.accepted later).setSeq (.run m []))
      ∧ run 2 s = .next ((perform m (((s.accepted later).pass 1).setSeq (.run m []))).setSeq .idle) := by
  have haccept : step s = .next ((s.accepted later).setSeq (.run m [])) := (step_of_read hs ho hr).trans (hexec _)
  have hrst : ((s.accepted later).setSeq (.run m [])).rstN = true :=
    noReset_rstN (noReset_congr (s := s.pass 1) rfl (noReset_pass (m := 1) (n := 1) hs.noReset))
  have hmicro := step_of_micro (activity_micro hrst rfl)
  rw [microStep_eq_perform_pass] at hmicro
  exact ⟨hexec _, haccept, (run_succ 1 haccept).trans (run_one hmicro)⟩

end Offered

/-! ### The pins of the pin commands (R102, R305, R401 to R404) -/

@[simp] theorem outPin_outPinIndex (p : OutPin) : outPin (outPinIndex p) = some p := by
  cases p <;> rfl

theorem outPin_of_input {p : PinIndex} (h : 4 ≤ p.toNat) : outPin p = none := by
  revert p
  decide

theorem exec_pinset_of_pin {pin : PinIndex} {p : OutPin} (h : outPin pin = some p) (s : State) :
    exec (.pinset pin) s = start [.wr p true] s := by
  simp [exec, execPinset, h]

theorem exec_pinset_of_no_pin {pin : PinIndex} (h : outPin pin = none) (s : State) :
    exec (.pinset pin) s = takeFault .badpin (.pinset pin) s := by
  simp [exec, execPinset, h]

theorem exec_pinclr_of_pin {pin : PinIndex} {p : OutPin} (h : outPin pin = some p) (s : State) :
    exec (.pinclr pin) s = start [.wr p false] s := by
  simp [exec, execPinclr, h]

theorem exec_pinclr_of_no_pin {pin : PinIndex} (h : outPin pin = none) (s : State) :
    exec (.pinclr pin) s = takeFault .badpin (.pinclr pin) s := by
  simp [exec, execPinclr, h]

theorem exec_pintest_of_pin {pin : PinIndex} {p : Pin} (h : anyPin pin = some p) (s : State) :
    exec (.pintest pin) s = start [.tst p] s := by
  simp [exec, execPintest, h]

theorem exec_pintest_of_no_pin {pin : PinIndex} (h : anyPin pin = none) (s : State) :
    exec (.pintest pin) s = takeFault .badpin (.pintest pin) s := by
  simp [exec, execPintest, h]

theorem exec_pindir_of_pin {pin : PinIndex} {p : OutPin} (h : outPin pin = some p) (mode : PinMode) (s : State) :
    exec (.pindir pin mode) s = start [.dirw p mode] s := by
  simp [exec, execPindir, h]

theorem exec_pindir_of_no_pin {pin : PinIndex} (h : outPin pin = none) (mode : PinMode) (s : State) :
    exec (.pindir pin mode) s = takeFault .badpin (.pindir pin mode) s := by
  simp [exec, execPindir, h]

/-! ### What a pin reads and drives (R106) -/

theorem drawEnv_setSeq (p : Pin) (s : State) (q : Seq) :
    drawEnv p (s.setSeq q) = ((drawEnv p s).1, (drawEnv p s).2.setSeq q) := by
  cases h : s.inputs.env with
  | nil => rw [drawEnv_free p h, drawEnv_free p (s := s.setSeq q) h]; rfl
  | cons b rest => rw [drawEnv_supplied p h, drawEnv_supplied p (s := s.setSeq q) h]; rfl

/-- The level of a pin does not depend on what the sequencer runs. -/
theorem level_setSeq (p : Pin) (s : State) (q : Seq) :
    level p (s.setSeq q) = ((level p s).1, (level p s).2.setSeq q) := by
  cases p with
  | pulse ch => exact drawEnv_setSeq _ s q
  | out p =>
    simp only [level, State.setSeq_pins]
    cases s.pins.drive p with
    | some b => rfl
    | none => exact drawEnv_setSeq _ s q

/-- A pin drives its latch once its direction is OUT and nothing once it is IN (R106, R404). -/
theorem Pins.drive_set_dir (s : Pins) (p : OutPin) (m : PinMode) :
    Pins.drive { s with dir := s.dir.set p m } p = if m = .out then some (s.lat.get p) else none := by
  cases m with
  | out => exact Pins.drive_out (PerPin.get_set_same s.dir p .out)
  | inp => exact Pins.drive_inp (PerPin.get_set_same s.dir p .inp)

/-! ### The obligations -/

/-- Settles O20: PINSET is RSVD, BADPIN or the one micro-operation `WR(PIN, 1)`. -/
theorem pinsetSetsTheLatch : Obligations.PinsetSetsTheLatch := by
  intro s w later hs ho
  refine ⟨step_of_reserved (op := .pinset) hs ho, fun hr hpin => ?badpin, fun p hr hpin => ?legal⟩
  case badpin =>
    exact accept_of_takeFault (op := .pinset) hs ho hr (exec_pinset_of_no_pin (outPin_of_input hpin))
  case legal =>
    have hout : outPin (field w 8 3) = some p := by rw [hpin, outPin_outPinIndex]
    exact accept_of_start_one (op := .pinset) hs ho hr (exec_pinset_of_pin hout)

/-- Settles O21: PINCLR is RSVD, BADPIN or the one micro-operation `WR(PIN, 0)`. -/
theorem pinclrClearsTheLatch : Obligations.PinclrClearsTheLatch := by
  intro s w later hs ho
  refine ⟨step_of_reserved (op := .pinclr) hs ho, fun hr hpin => ?badpin, fun p hr hpin => ?legal⟩
  case badpin =>
    exact accept_of_takeFault (op := .pinclr) hs ho hr (exec_pinclr_of_no_pin (outPin_of_input hpin))
  case legal =>
    have hout : outPin (field w 8 3) = some p := by rw [hpin, outPin_outPinIndex]
    exact accept_of_start_one (op := .pinclr) hs ho hr (exec_pinclr_of_pin hout)

/-- Settles O22: PINTEST is RSVD, BADPIN or the one micro-operation `TST(PIN)`, whose level does not depend on `SEQ`. -/
theorem pintestReadsTheLevel : Obligations.PintestReadsTheLevel := by
  intro s w later hs ho
  refine ⟨step_of_reserved (op := .pintest) hs ho, fun hr hpin => ?badpin, fun p hr hpin => ?legal⟩
  case badpin =>
    exact accept_of_takeFault (op := .pintest) hs ho hr (exec_pintest_of_no_pin (anyPin_reserved hpin))
  case legal =>
    have hany : anyPin (field w 8 3) = some p := by rw [hpin, anyPin_pinIndex]
    obtain ⟨hexec, hstep, hrun⟩ := accept_of_start_one (op := .pintest) hs ho hr (exec_pintest_of_pin hany)
    rw [perform, level_setSeq] at hrun
    exact ⟨hexec, hstep, hrun⟩

/-- Settles O23: PINDIR is RSVD, BADPIN or the one micro-operation `DIRW(PIN, MODE)`; the pin then drives its latch or
nothing. -/
theorem pindirWritesTheDirection : Obligations.PindirWritesTheDirection := by
  intro s w later hs ho
  refine ⟨step_of_reserved (op := .pindir) hs ho, fun m hr hpin hm => ?badpin, fun p m hr hpin hm => ?legal⟩
  case badpin =>
    subst hm
    exact accept_of_takeFault (op := .pindir) hs ho hr (exec_pindir_of_no_pin (outPin_of_input hpin) _)
  case legal =>
    subst hm
    have hout : outPin (field w 8 3) = some p := by rw [hpin, outPin_outPinIndex]
    obtain ⟨hexec, hstep, hrun⟩ := accept_of_start_one (op := .pindir) hs ho hr (exec_pindir_of_pin hout _)
    exact ⟨hexec, hstep, _, hrun, rfl, s.pins.drive_set_dir p _⟩

end Machine

end Sys2Proof
end

section
/-! PROOFS. The family `41_serial_frame.md`: a list of micro-operations that all record an event runs to its end, a frame is its
chip-select writes around the events of its bits, and what the lines and the reference receiver show along those events. -/

namespace Sys2Proof.Machine

/-! ### Micro-operations that record an event (R203, R204) -/

/-- A micro-operation that records an event does to the state what the event says, and nothing else. -/
theorem perform_of_event {op : MicroOp} {e : Event} (h : op.event = some e) (s : State) :
    perform op s = { s with pins := s.pins.after e, trace := s.trace ++ [e] } := by
  cases op with
  | wr p v => cases h; rfl
  | dirw p m => cases h; rfl
  | dly n => cases h; rfl
  | tst p => cases h
  | setclass c => cases h

theorem afterEvents_afterEvents (s : State) (a b : List Event) (m n : Nat) :
    (s.afterEvents a m).afterEvents b n = s.afterEvents (a ++ b) (m + n) := by
  simp [State.afterEvents, State.pass, Pins.replay_append, List.drop_drop]

/-- The step of a running micro-operation that records an event. -/
theorem step_of_event {op : MicroOp} {e : Event} {s : State} (rest : List MicroOp) (h : op.event = some e)
    (hr : s.rstN = true) :
    step (s.setSeq (.run op rest)) = .next ((s.afterEvents [e] 1).setSeq (Seq.ofList rest)) := by
  rw [step_of_micro (activity_micro (s := s.setSeq (.run op rest)) hr rfl), microStep_eq_perform_pass,
    perform_of_event h]
  rfl

/-- R204: a list of micro-operations that all record an event runs to its end, and exactly its events happen. -/
theorem run_of_events {ops : List MicroOp} {s : State} (hops : ∀ op ∈ ops, op.event.isSome) (hnr : s.noReset ops.length) :
    run ops.length (s.setSeq (Seq.ofList ops)) = .next (s.afterEvents (eventsOf ops) ops.length) := by
  induction ops generalizing s with
  | nil => simp [State.afterEvents, State.setSeq, eventsOf]
  | cons op rest ih =>
    obtain ⟨hop, hrest⟩ := List.forall_mem_cons.mp hops
    obtain ⟨e, he⟩ := Option.isSome_iff_exists.mp hop
    rw [List.length_cons] at hnr ⊢
    have hnr' : (s.afterEvents [e] 1).noReset rest.length :=
      noReset_congr (s := s.pass 1) rfl (noReset_pass (Nat.add_comm 1 _ ▸ hnr))
    rw [Seq.ofList_cons, run_succ _ (step_of_event rest he (noReset_rstN hnr)), ih hrest hnr', afterEvents_afterEvents,
      eventsOf_cons, he, Nat.add_comm 1]
    rfl

/-- A command that expands into micro-operations that all record an event, from its word to its end (R202, R204). -/
theorem accept_of_start_events {s : State} {w : Command} {later : List (Option Command)} {op : Op} {ops : List MicroOp}
    (hs : s.Offering w later (ops.length + 1)) (ho : opOf w = op.code) (hr : w &&& op.rsvd = 0#64)
    (hops : ∀ op ∈ ops, op.event.isSome) (hexec : ∀ t, exec (op.read w) t = start ops t) :
    exec (op.read w) (s.accepted later) = .next ((s.accepted later).setSeq (Seq.ofList ops))
      ∧ step s = .next ((s.accepted later).setSeq (Seq.ofList ops))
      ∧ run (ops.length + 1) s = .next ((s.accepted later).afterEvents (eventsOf ops) ops.length) := by
  have haccept : step s = .next ((s.accepted later).setSeq (Seq.ofList ops)) := (step_of_read hs ho hr).trans (hexec _)
  have hnr : (s.accepted later).noReset ops.length :=
    noReset_congr (s := s.pass 1) rfl (noReset_pass (Nat.add_comm ops.length 1 ▸ hs.noReset))
  exact ⟨hexec _, haccept, (run_succ _ haccept).trans (run_of_events hops hnr)⟩

/-! ### The events of a frame (R421) -/

/-- The events of one bit of a frame: the data line, then the clock high, then the clock low. -/
def bitEvents (b : Bool) : List Event := [.wr .sda b, .wr .sck true, .wr .sck false]

/-- The events of some bits of a frame, one bit after the other. -/
def bitsEvents (bits : List Bool) : List Event := bits.flatMap bitEvents

/-- The bits of a frame value in wire order. -/
def frameBits (f : Frame) : List Bool := frameBitOrder.map fun i => f.getLsbD i

@[simp] theorem bitsEvents_nil : bitsEvents [] = [] := rfl

@[simp] theorem bitsEvents_cons (b : Bool) (bits : List Bool) : bitsEvents (b :: bits) = bitEvents b ++ bitsEvents bits := rfl

theorem frameOps_record (f : Frame) : ∀ op ∈ frameOps f, op.event.isSome :=
  List.all_eq_true.mp rfl

/-- A frame takes 29 micro-steps, and exactly its events happen (R421). -/
theorem run_frame {s : State} (hnr : s.noReset 29) (f : Frame) :
    run 29 (s.setSeq (Seq.ofList (frameOps f))) = .next (s.afterEvents (eventsOf (frameOps f)) 29) :=
  run_of_events (frameOps_record f) hnr

/-- A frame's events: chip-select active, its nine bits, chip-select idle. -/
theorem eventsOf_frameOps (f : Frame) :
    eventsOf (frameOps f) = .wr .cs false :: (bitsEvents (frameBits f) ++ [.wr .cs true]) := rfl

theorem frameBits_eq (f : Frame) : frameBits f = [8, 7, 6, 5, 4, 3, 2, 1, 0].map fun i => f.getLsbD i := rfl

@[simp] theorem frameBits_length (f : Frame) : (frameBits f).length = 9 := rfl

theorem frameBits_frameWord (dc : Bool) (b : Byte) :
    frameBits (frameWord dc b) =
      [dc, b.getLsbD 7, b.getLsbD 6, b.getLsbD 5, b.getLsbD 4, b.getLsbD 3, b.getLsbD 2, b.getLsbD 1, b.getLsbD 0] := by
  simp only [frameBits_eq, List.map_cons, List.map_nil, frameWord_flag, frameWord_bit, Nat.reduceLT]

theorem bitsValue_frameBits (f : Frame) : bitsValue (frameBits f) = f := by
  revert f
  decide

theorem count_sck_bitsEvents (v : Bool) (bits : List Bool) : (bitsEvents bits).count (.wr .sck v) = bits.length := by
  induction bits with
  | nil => rfl
  | cons b bits ih => cases v <;> simp [bitEvents, ih]

theorem count_sck_frame (v : Bool) (f : Frame) : (eventsOf (frameOps f)).count (.wr .sck v) = 9 := by
  simp [eventsOf_frameOps, count_sck_bitsEvents]

/-! ### The pins along a frame (R425) -/

/-- The clock ends low and the data at the last bit sent; the display reset and the directions are not written. -/
theorem replay_frame (s : Pins) (f : Frame) :
    s.replay (eventsOf (frameOps f)) =
      { dir := s.dir, lat := { sck := false, sda := f.getLsbD 0, cs := true, rst := s.lat.rst } } := rfl

/-! ### What the lines show when a latch is written (R106) -/

@[simp] theorem Pins.wire_sck (s : Pins) : s.wire.sck = s.drive .sck := rfl
@[simp] theorem Pins.wire_sda (s : Pins) : s.wire.sda = s.drive .sda := rfl
@[simp] theorem Pins.wire_cs (s : Pins) : s.wire.cs = s.drive .cs := rfl

@[simp] theorem Pins.after_wr_dir (s : Pins) (p : OutPin) (v : Bool) : (s.after (.wr p v)).dir = s.dir := rfl

theorem Pins.drive_after_wr_same {s : Pins} {p : OutPin} (v : Bool) (h : s.dir.get p = .out) :
    (s.after (.wr p v)).drive p = some v :=
  (Pins.drive_out (s := s.after (.wr p v)) h).trans (congrArg some (PerPin.get_set_same s.lat p v))

theorem Pins.drive_after_wr_other {s : Pins} {p q : OutPin} (v : Bool) (h : q ≠ p) :
    (s.after (.wr p v)).drive q = s.drive q := by
  unfold Pins.drive Pins.after
  rw [PerPin.get_set_other _ _ _ _ h]

@[simp] theorem fell_self (x : Option Bool) : fell x x = false := by
  rcases x with _ | _ | _ <;> rfl

@[simp] theorem rose_self (x : Option Bool) : rose x x = false := by
  rcases x with _ | _ | _ <;> rfl

theorem fell_from_low (x : Option Bool) : fell (some false) x = false := rfl

theorem fell_to_high (x : Option Bool) : fell x (some true) = false := by
  rcases x with _ | _ | _ <;> rfl

theorem fell_high_low : fell (some true) (some false) = true := rfl

/-! ### The edges and the data along the bits of a frame (R424) -/

theorem dataAtEdges_append (edge : Edge) (s : Pins) (a b : List Event) :
    dataAtEdges edge s (a ++ b) = dataAtEdges edge s a ++ dataAtEdges edge (s.replay a) b := by
  induction a generalizing s with
  | nil => rfl
  | cons e a ih => simp [dataAtEdges, ih]

section DrivenClock
variable {s : Pins} (hsck : s.dir.get .sck = .out)
include hsck

theorem falling_bitEvents (b : Bool) : countEdges .falling .sck s (bitEvents b) = 1 := by
  simp [bitEvents, countEdges, edgeShows, Pins.drive_after_wr_same, Pins.drive_after_wr_other, hsck, fell_to_high,
    fell_high_low]

/-- The clock's write to 1 is an edge if the clock was low. -/
theorem rising_bitEvents (b : Bool) : countEdges .rising .sck s (bitEvents b) = (!s.lat.get .sck).toNat := by
  simp [bitEvents, countEdges, edgeShows, Pins.drive_after_wr_same, Pins.drive_after_wr_other, Pins.drive_out hsck, hsck,
    rose]

theorem data_bitEvents (hsda : s.dir.get .sda = .out) (b : Bool) : dataAtEdges .falling s (bitEvents b) = [some b] := by
  simp [bitEvents, dataAtEdges, edgeShows, Pins.drive_after_wr_same, Pins.drive_after_wr_other, hsck, hsda, fell_to_high,
    fell_high_low]

theorem falling_bitsEvents (bits : List Bool) : countEdges .falling .sck s (bitsEvents bits) = bits.length := by
  induction bits generalizing s with
  | nil => rfl
  | cons b bits ih =>
    rw [bitsEvents_cons, countEdges_append, falling_bitEvents hsck, ih (s := s.replay (bitEvents b)) hsck,
      List.length_cons, Nat.add_comm]

theorem rising_bitsEvents_of_low (hlow : s.lat.get .sck = false) (bits : List Bool) :
    countEdges .rising .sck s (bitsEvents bits) = bits.length := by
  induction bits generalizing s with
  | nil => rfl
  | cons b bits ih =>
    rw [bitsEvents_cons, countEdges_append, rising_bitEvents hsck, hlow, ih (s := s.replay (bitEvents b)) hsck rfl,
      List.length_cons, Nat.add_comm]
    rfl

theorem data_bitsEvents (hsda : s.dir.get .sda = .out) (bits : List Bool) :
    dataAtEdges .falling s (bitsEvents bits) = bits.map some := by
  induction bits generalizing s with
  | nil => rfl
  | cons b bits ih =>
    rw [bitsEvents_cons, dataAtEdges_append, data_bitEvents hsck hsda,
      ih (s := s.replay (bitEvents b)) hsck hsda]
    rfl

end DrivenClock

/-! ### The edges and the data of a whole frame (R424) -/

/-- The chip-select writes of a frame are no clock edges. -/
theorem countEdges_frame (e : Edge) (s : Pins) (f : Frame) :
    countEdges e .sck s (eventsOf (frameOps f)) = countEdges e .sck (s.after (.wr .cs false)) (bitsEvents (frameBits f)) := by
  cases e <;> simp [eventsOf_frameOps, countEdges, countEdges_append, edgeShows, Pins.drive_after_wr_other]

theorem dataAtEdges_frame (e : Edge) (s : Pins) (f : Frame) :
    dataAtEdges e s (eventsOf (frameOps f)) = dataAtEdges e (s.after (.wr .cs false)) (bitsEvents (frameBits f)) := by
  cases e <;> simp [eventsOf_frameOps, dataAtEdges, dataAtEdges_append, edgeShows, Pins.drive_after_wr_other]

section DrivenClock
variable {s : Pins} (hsck : s.dir.get .sck = .out)
include hsck

theorem falling_frame (f : Frame) : countEdges .falling .sck s (eventsOf (frameOps f)) = 9 :=
  (countEdges_frame .falling s f).trans (falling_bitsEvents (s := s.after (.wr .cs false)) hsck (frameBits f))

/-- The first bit's rising edge shows only if the clock was low; every later bit finds the clock low. -/
theorem rising_frame (f : Frame) : countEdges .rising .sck s (eventsOf (frameOps f)) = if s.lat.sck then 8 else 9 := by
  let t := s.after (.wr .cs false)
  obtain ⟨b, bits, hf, hlen⟩ : ∃ b bits, frameBits f = b :: bits ∧ bits.length = 8 := ⟨_, _, rfl, rfl⟩
  have hfirst : countEdges .rising .sck t (bitEvents b) = (!s.lat.sck).toNat := rising_bitEvents (s := t) hsck b
  have hlater : countEdges .rising .sck (t.replay (bitEvents b)) (bitsEvents bits) = bits.length :=
    rising_bitsEvents_of_low (s := t.replay (bitEvents b)) hsck rfl bits
  rw [countEdges_frame, hf, bitsEvents_cons, countEdges_append, hfirst, hlater, hlen]
  cases s.lat.sck <;> rfl

theorem data_frame (hsda : s.dir.get .sda = .out) (f : Frame) :
    dataAtEdges .falling s (eventsOf (frameOps f)) = (frameBits f).map some :=
  (dataAtEdges_frame .falling s f).trans (data_bitsEvents (s := s.after (.wr .cs false)) hsck hsda (frameBits f))

end DrivenClock

/-! ### The data writes of a frame (R426) -/

theorem Pins.sda_changes_only_by_wr {s : Pins} {e : Event} (h : (s.after e).lat.sda ≠ s.lat.sda) :
    ∃ v, e = .wr .sda v := by
  cases e with
  | wr p v =>
    cases p with
    | sda => exact ⟨v, rfl⟩
    | sck => exact absurd rfl h
    | cs => exact absurd rfl h
    | rst => exact absurd rfl h
  | dir p m => exact absurd rfl h
  | delay n => exact absurd rfl h

/-- Among the bits of a frame a data write is the first event or follows the clock write to 0 of the previous bit. -/
theorem before_data_write_of_bits {bits : List Bool} {before after : List Event} {v : Bool}
    (h : bitsEvents bits ++ [.wr .cs true] = before ++ .wr .sda v :: after) :
    before = [] ∨ ∃ earlier, before = earlier ++ [.wr .sck false] := by
  induction bits generalizing before with
  | nil =>
    cases before with
    | nil => exact .inl rfl
    | cons e before => simp at h
  | cons b bits ih =>
    match before, h with
    | [], _ => exact .inl rfl
    | [e₁], h => simp [bitEvents] at h
    | [e₁, e₂], h => simp [bitEvents] at h
    | e₁ :: e₂ :: e₃ :: before, h =>
      simp only [bitsEvents_cons, bitEvents, List.cons_append, List.nil_append, List.cons.injEq] at h
      obtain ⟨rfl, rfl, rfl, htail⟩ := h
      rcases ih htail with rfl | ⟨earlier, rfl⟩
      · exact .inr ⟨[_, _], rfl⟩
      · exact .inr ⟨_ :: _ :: _ :: earlier, rfl⟩

theorem before_data_write_of_frame {f : Frame} {before after : List Event} {v : Bool}
    (h : eventsOf (frameOps f) = before ++ .wr .sda v :: after) :
    before = [.wr .cs false] ∨ ∃ earlier, before = earlier ++ [.wr .sck false] := by
  rw [eventsOf_frameOps] at h
  cases before with
  | nil => simp at h
  | cons e before =>
    obtain ⟨rfl, hbits⟩ := List.cons.inj h
    rcases before_data_write_of_bits hbits with rfl | ⟨earlier, rfl⟩
    · exact .inl rfl
    · exact .inr ⟨_ :: earlier, rfl⟩

/-! ### The reference receiver along a frame (R428, R430) -/

theorem deliveryOf_frameBits (f : Frame) : deliveryOf (some ((frameBits f).map some)) = [.frame f] := by
  simp [deliveryOf, bitsValue_frameBits, Function.comp_def]

/-- The bits of a frame leave chip-select and the directions. -/
theorem replay_bitsEvents_keeps (s : Pins) (bits : List Bool) :
    (s.replay (bitsEvents bits)).lat.cs = s.lat.cs ∧ (s.replay (bitsEvents bits)).dir = s.dir := by
  induction bits generalizing s with
  | nil => exact ⟨rfl, rfl⟩
  | cons b bits ih =>
    rw [bitsEvents_cons, Pins.replay_append]
    exact ih (s.replay (bitEvents b))

section DrivenLines
variable {s : Pins} (hsck : s.dir.get .sck = .out) (hcs : s.dir.get .cs = .out)

include hcs in
theorem observe_select (edge : Edge) (hidle : s.lat.get .cs = true) (r : Receiver) :
    r.observe edge s.wire (s.after (.wr .cs false)).wire = { r with shift := some [] } := by
  simp [Receiver.observe, Pins.drive_after_wr_same, Pins.drive_out hcs, hcs, hidle, fell_high_low]

include hsck hcs in
theorem observe_deselect (edge : Edge) (hactive : s.lat.get .cs = false) (r : Receiver) :
    r.observe edge s.wire (s.after (.wr .cs true)).wire = { r with delivered := r.delivered ++ deliveryOf r.shift } := by
  simp [Receiver.observe, Pins.drive_after_wr_same, Pins.drive_after_wr_other, Pins.drive_out hcs, Pins.drive_out hsck, hcs,
    hactive, fell_from_low, rose]

include hsck hcs

/-- A bit sent while chip-select is active is shifted in at its falling edge. -/
theorem watch_bitEvents (hsda : s.dir.get .sda = .out) (hactive : s.lat.get .cs = false) (r : Receiver) (b : Bool) :
    r.watch .falling s (bitEvents b) = { r with shift := r.shift.map fun sh => sh ++ [some b] } := by
  simp [bitEvents, Receiver.watch, Receiver.observe, edgeShows, Pins.drive_after_wr_same, Pins.drive_after_wr_other,
    Pins.drive_out hcs, hsck, hsda, hactive, fell_to_high, fell_high_low]

theorem watch_bitsEvents (hsda : s.dir.get .sda = .out) (hactive : s.lat.get .cs = false) (r : Receiver)
    (bits : List Bool) :
    r.watch .falling s (bitsEvents bits) = { r with shift := r.shift.map fun sh => sh ++ bits.map some } := by
  induction bits generalizing s r with
  | nil => simp [Receiver.watch]
  | cons b bits ih =>
    rw [bitsEvents_cons, Receiver.watch_append, watch_bitEvents hsck hcs hsda hactive,
      ih (s := s.replay (bitEvents b)) hsck hcs hsda hactive]
    simp [Function.comp_def]

/-- R430: a frame sent on driven lines from an idle chip-select is delivered, whatever the receiver had seen before. -/
theorem watch_frame (hsda : s.dir.get .sda = .out) (hidle : s.lat.get .cs = true) (r : Receiver) (f : Frame) :
    r.watch .falling s (eventsOf (frameOps f)) =
      { shift := some ((frameBits f).map some), delivered := r.delivered ++ [.frame f] } := by
  let t := s.after (.wr .cs false)
  obtain ⟨hcsKept, hdirKept⟩ := replay_bitsEvents_keeps t (frameBits f)
  have hbits := watch_bitsEvents (s := t) hsck hcs hsda rfl { r with shift := some [] } (frameBits f)
  have hend := observe_deselect (s := t.replay (bitsEvents (frameBits f))) (hdirKept ▸ hsck) (hdirKept ▸ hcs) .falling
    hcsKept { r with shift := some ((frameBits f).map some) }
  rw [eventsOf_frameOps, Receiver.watch, observe_select hcs .falling hidle, Receiver.watch_append, hbits]
  simpa [Receiver.watch, deliveryOf_frameBits] using hend

theorem delivered_frame (hsda : s.dir.get .sda = .out) (hidle : s.lat.get .cs = true) (f : Frame) :
    delivered s (eventsOf (frameOps f)) = [.frame f] :=
  congrArg Receiver.delivered (watch_frame hsck hcs hsda hidle Receiver.fresh f)

end DrivenLines

/-! ### The obligations -/

/-- Settles O24: the bit loop written out, for the frame value `dc : b`. -/
theorem frameIsTheListedMicroOperations : Obligations.FrameIsTheListedMicroOperations :=
  fun dc b => ⟨frameWord dc b, frameWord_flag dc b, frameWord_bit dc b, frameOps_eq _, frameOps_length _⟩

/-- Settles O25: TXFRAME is RSVD, or a list of micro-operations that all record an event and runs to its end. -/
theorem txframeSendsItsFrame : Obligations.TxframeSendsItsFrame := by
  intro s w later hs ho
  refine ⟨step_of_reserved (op := .txframe) hs ho, fun hr dc b hdc hb => ?legal⟩
  case legal =>
    subst hdc hb
    obtain ⟨hexec, hstep, hrun⟩ := accept_of_start_events (op := .txframe) hs ho hr
      (frameOps_record (frameWord (w.getLsbD 16) (field w 8 8))) fun _ => rfl
    exact ⟨hexec, hstep, hrun, rfl⟩

/-- Settles O26: the pseudo-instructions start the frames of their TXFRAMEs, which run to their ends. -/
theorem sendcmdAndSenddataAreTxframe : Obligations.SendcmdAndSenddataAreTxframe :=
  fun _ _ => ⟨rfl, rfl, rfl, rfl, rfl, rfl, fun hnr => ⟨run_frame hnr _, run_frame hnr _⟩⟩

/-- Settles O27: each bit is one clock pulse, whose falling edge shows the bit; only the first rising edge can be missing. -/
theorem frameShowsNineClockPulses : Obligations.FrameShowsNineClockPulses := by
  intro s dc b hsck hsda
  refine ⟨count_sck_frame true _, count_sck_frame false _, falling_frame hsck _, rising_frame hsck _, ?data⟩
  case data =>
    rw [frame, data_frame hsck hsda, frameBits_frameWord]
    rfl

/-- Settles O28: the last writes of the lines in a frame are those of its bit 0 and of the chip-select. -/
theorem frameLeavesChipSelectHighAndClockLow : Obligations.FrameLeavesChipSelectHighAndClockLow := by
  intro s dc b
  rw [frame, replay_frame, frameWord_bit dc b 0 (by decide)]

/-- Settles O29: a data write is a frame's second event or follows a clock write to 0, and nothing else writes the data. -/
theorem dataIsWrittenWhileTheClockIsLowOrFirstInTheFrame :
    Obligations.DataIsWrittenWhileTheClockIsLowOrFirstInTheFrame := by
  intro s dc b before after v h
  refine ⟨(before_data_write_of_frame h).imp_right ?later, fun _ _ => Pins.sda_changes_only_by_wr⟩
  case later =>
    rintro ⟨earlier, rfl⟩
    refine ⟨⟨earlier, rfl⟩, ?_⟩
    rw [Pins.replay_append]
    rfl

/-- Settles O30: the frame runs to its end, and the receiver shifts in and delivers its nine bits. -/
theorem frameIsDeliveredAsSent : Obligations.FrameIsDeliveredAsSent := by
  intro s dc b hnr hsck hsda hcs hidle
  let f := frameWord dc b
  exact ⟨s.setSeq (Seq.ofList (frameOps f)), eventsOf (frameOps f), rfl, run_frame hnr f, falling_frame hsck f, f,
    delivered_frame hsck hcs hsda hidle f, frameWord_flag dc b, frameWord_bit dc b⟩

end Sys2Proof.Machine
end

section
/-! PROOFS. The family `42_display.md`: a list of frames as micro-operations, its length and the pins it leaves, the frames of
INITDISP and of FILLRECT written out, and the packing of a pixel pair. -/

namespace Sys2Proof.Machine

/-! ### A list of frames (R450) -/

@[simp] theorem framesOps_nil : framesOps [] = [] := rfl

@[simp] theorem framesOps_cons (f : Frame) (fs : List Frame) : framesOps (f :: fs) = frameOps f ++ framesOps fs := rfl

theorem framesOps_append (fs gs : List Frame) : framesOps (fs ++ gs) = framesOps fs ++ framesOps gs :=
  List.flatMap_append

theorem framesOps_map_data (bs : List Byte) : framesOps (bs.map (frameWord true)) = bs.flatMap (frame true) :=
  List.flatMap_map ..

theorem framesOps_flatten_replicate (n : Nat) (fs : List Frame) :
    framesOps (List.replicate n fs).flatten = (List.replicate n (framesOps fs)).flatten := by
  rw [framesOps, ← List.flatMap_id, List.flatMap_assoc, List.flatMap_replicate]
  rfl

theorem framesOps_commandFrames (op : Byte) (payload : List Byte) :
    framesOps (commandFrames op payload) = frame false op ++ payload.flatMap (frame true) := by
  rw [commandFrames, framesOps_cons, framesOps_map_data]
  rfl

@[simp] theorem framesOps_length (fs : List Frame) : (framesOps fs).length = 29 * fs.length := by
  induction fs with
  | nil => rfl
  | cons f fs ih =>
    rw [framesOps_cons, List.length_append, frameOps_length, ih, List.length_cons]
    omega

theorem framesOps_record (fs : List Frame) : ∀ op ∈ framesOps fs, op.event.isSome := by
  intro op hop
  obtain ⟨f, -, hf⟩ := List.mem_flatMap.mp hop
  exact frameOps_record f op hf

@[simp] theorem commandFrames_length (op : Byte) (payload : List Byte) :
    (commandFrames op payload).length = 1 + payload.length := by
  rw [commandFrames, List.length_cons, List.length_map, Nat.add_comm]

/-- R425 for one frame after another: the data line is left at the last bit of the last frame. -/
theorem replay_framesOps {fs : List Frame} (hne : fs ≠ []) (s : Pins) :
    s.replay (eventsOf (framesOps fs)) =
      { dir := s.dir, lat := { sck := false, sda := (fs.getLast hne).getLsbD 0, cs := true, rst := s.lat.rst } } := by
  induction fs generalizing s with
  | nil => exact absurd rfl hne
  | cons f fs ih =>
    rw [framesOps_cons, eventsOf_append, Pins.replay_append, replay_frame]
    cases fs with
    | nil => rfl
    | cons g gs => rw [ih (List.cons_ne_nil g gs), List.getLast_cons_cons]

theorem commandFrames_ne_nil (op : Byte) (payload : List Byte) : commandFrames op payload ≠ [] := List.cons_ne_nil _ _

/-- Bit 0 of a frame is bit 0 of its byte, so the last bit an op-code's frames send is that of its last byte. -/
theorem commandFrames_last_bit (op : Byte) (payload : List Byte) :
    ((commandFrames op payload).getLast (commandFrames_ne_nil op payload)).getLsbD 0 =
      ((op :: payload).getLast (List.cons_ne_nil op payload)).getLsbD 0 := by
  rcases List.eq_nil_or_concat payload with rfl | ⟨front, b, rfl⟩
  · exact frameWord_bit false op 0 (by decide)
  · simpa [commandFrames] using frameWord_bit true b 0 (by decide)

/-! ### INITDISP (R453, R454, R456) -/

/-- R454: the frames of the ten op-codes follow the preamble. -/
theorem expandInitdisp_eq (settle : Nat) (payload : Byte → List Byte) :
    expandInitdisp settle payload =
      initPreamble settle ++ initOpcodes.flatMap fun op => frame false op ++ (payload op).flatMap (frame true) := by
  simp only [expandInitdisp, initFrames, initTable, framesOps, List.flatMap_map, List.flatMap_assoc]
  exact congrArg _ (List.flatMap_congr fun op _ => framesOps_commandFrames op (payload op))

theorem initFrames_length (payload : Byte → List Byte) :
    (initFrames payload).length = 10 + (initOpcodes.map fun op => (payload op).length).sum := by
  simp only [initFrames, initTable, List.length_flatMap, List.map_map, Function.comp_def, commandFrames_length,
    List.sum_map_add]
  rfl

/-- R454: "`14 + 29 * (10 + P)` micro-steps". -/
theorem expandInitdisp_length (settle : Nat) (payload : Byte → List Byte) :
    (expandInitdisp settle payload).length = 14 + 29 * (10 + (initOpcodes.map fun op => (payload op).length).sum) := by
  rw [expandInitdisp, List.length_append, framesOps_length, initFrames_length]
  rfl

theorem expandInitdisp_record (settle : Nat) (payload : Byte → List Byte) :
    ∀ op ∈ expandInitdisp settle payload, op.event.isSome :=
  List.forall_mem_append.mpr ⟨List.all_eq_true.mp rfl, framesOps_record _⟩

/-- The preamble sets every direction and every latch, so nothing of the pins before it is left. -/
theorem replay_initPreamble (s : Pins) (settle : Nat) :
    s.replay (eventsOf (initPreamble settle)) = { dir := PerPin.all .out, lat := PerPin.all true } := rfl

/-- The last frames INITDISP sends are those of display-on. -/
theorem initFrames_eq_append_dison (payload : Byte → List Byte) :
    initFrames payload =
      (initOpcodes.dropLast.flatMap fun op => commandFrames op (payload op))
        ++ commandFrames Config.opcDison (payload Config.opcDison) := by
  simp [initFrames, initTable, initOpcodes]

/-! ### FILLRECT (R460 to R465) -/

theorem rectInRange_iff (x y w h : Byte) :
    rectInRange x y w h = true ↔
      x.toNat ≤ 130 ∧ y.toNat ≤ 130 ∧ 1 ≤ w.toNat ∧ w.toNat ≤ 131 ∧ 1 ≤ h.toNat ∧ h.toNat ≤ 131 := by
  simp only [rectInRange, Bool.and_eq_true, decide_eq_true_eq]
  simp only [Config.screenW, Config.screenH]
  omega

theorem exec_fillrect_in_range {x y w h : Byte} (color : Color) (hr : rectInRange x y w h = true) (s : State) :
    exec (.fillrect x y w h color) s = start (expandFillrect x y w h color) s := if_pos hr

theorem exec_fillrect_out_of_range {x y w h : Byte} (color : Color) (hr : ¬rectInRange x y w h = true) (s : State) :
    exec (.fillrect x y w h color) s = takeFault .range (.fillrect x y w h color) s := if_neg hr

/-- R461: seven frames for the windows and memory-write, then the triples of the pixel pairs. -/
theorem fillFrames_eq (x y w h : Byte) (color : Color) :
    fillFrames x y w h color =
      [frameWord false Config.opcPaset, frameWord true y, frameWord true (BitVec.ofNat 8 (y.toNat + h.toNat + 1)),
        frameWord false Config.opcCaset, frameWord true x, frameWord true (BitVec.ofNat 8 (x.toNat + w.toNat - 1)),
        frameWord false Config.opcRamwr]
        ++ (List.replicate (pairCount w h) ((packPair color color).map (frameWord true))).flatten := by
  simp [fillFrames, commandFrames, rowWindow, columnWindow, pixelBytes, List.map_flatten]

theorem fillFrames_length (x y w h : Byte) (color : Color) :
    (fillFrames x y w h color).length = 7 + 3 * pairCount w h := by
  simp [fillFrames_eq, packPair]
  omega

/-- R460: "`29 * (7 + 3N)` micro-steps". -/
theorem expandFillrect_length (x y w h : Byte) (color : Color) :
    (expandFillrect x y w h color).length = 29 * (7 + 3 * pairCount w h) := by
  rw [expandFillrect, framesOps_length, fillFrames_length]

theorem expandFillrect_eq (x y w h : Byte) (color : Color) :
    expandFillrect x y w h color =
      frame false Config.opcPaset ++ frame true y ++ frame true (BitVec.ofNat 8 (y.toNat + h.toNat + 1))
        ++ frame false Config.opcCaset ++ frame true x ++ frame true (BitVec.ofNat 8 (x.toNat + w.toNat - 1))
        ++ frame false Config.opcRamwr
        ++ (List.replicate (pairCount w h) ((packPair color color).flatMap (frame true))).flatten := by
  rw [expandFillrect, fillFrames_eq, framesOps_append, framesOps_flatten_replicate, framesOps_map_data]
  simp only [framesOps_cons, framesOps_nil, frame, List.append_assoc, List.nil_append]

theorem packPair_flatMap {α : Type} (c1 c2 : Color) (f : Byte → List α) :
    (packPair c1 c2).flatMap f =
      f (field c1 4 8) ++ f ((field c1 0 4).setWidth 8 <<< 4 ||| (field c2 8 4).setWidth 8) ++ f (field c2 0 8) := by
  simp [packPair]

/-- A sum modulo 256 is the sum's byte (R462, R463). -/
theorem ofNat_byte_mod (n : Nat) : BitVec.ofNat 8 (n % 256) = BitVec.ofNat 8 n :=
  BitVec.eq_of_toNat_eq (Nat.mod_mod n 256)

/-! ### The packing of a pixel pair (R465) -/

/-- The middle byte of a pair has the low nibble of the first colour above the high nibble of the second. -/
theorem packPair_middle (a b : BitVec 4) : a.setWidth 8 <<< 4 ||| b.setWidth 8 = a ++ b := by
  rw [BitVec.append_def, BitVec.shiftLeftZeroExtend_eq, BitVec.setWidth'_eq]

theorem toNat_append_eq_add {m n : Nat} (x : BitVec m) (y : BitVec n) : (x ++ y).toNat = x.toNat * 2 ^ n + y.toNat := by
  rw [BitVec.toNat_append, ← Nat.shiftLeft_add_eq_or_of_lt y.isLt, Nat.shiftLeft_eq]

theorem field_toNat {n : Nat} (w : BitVec n) (lo len : Nat) : (field w lo len).toNat = w.toNat / 2 ^ lo % 2 ^ len := by
  rw [field, BitVec.extractLsb'_toNat, Nat.shiftRight_eq_div_pow]

/-- The three bytes are the two colours: each colour is its upper part and its lower part put together. -/
theorem packPair_concat (c1 c2 : Color) :
    field c1 4 8 ++ (field c1 0 4 ++ field c2 8 4) ++ field c2 0 8 = (c1 ++ c2 : BitVec 24) := by
  have h1 : c1.toNat < 4096 := c1.isLt
  have h2 : c2.toNat < 4096 := c2.isLt
  refine BitVec.eq_of_toNat_eq ?_
  simp only [toNat_append_eq_add, field_toNat, Config.pixBits]
  omega

/-! ### CLEARSCR (R467) -/

theorem packPair_black : packPair 0x000#12 0x000#12 = List.replicate 3 0#8 := by decide

theorem pairCount_screen : pairCount 131#8 131#8 = 8580 := by decide

/-- Every pixel byte of a black rectangle is 0. -/
theorem black_pixel_frames (n : Nat) :
    (List.replicate n ((packPair 0x000#12 0x000#12).map (frameWord true))).flatten = List.replicate (n * 3) 0x100#9 := by
  rw [packPair_black, List.map_replicate, List.flatten_replicate_replicate]
  rfl

theorem clearscr_length : (expandFillrect 0#8 0#8 131#8 131#8 0x000#12).length = 746663 := by
  rw [expandFillrect_length, pairCount_screen]

/-! ### The obligations -/

/-- Settles O35: INITDISP is RSVD, or a list of micro-operations that all record an event and runs to its end. -/
theorem initdispRunsItsSequence : Obligations.InitdispRunsItsSequence := by
  intro s w later ops payloadLength hops hlen hs ho
  obtain rfl : ops = expandInitdisp Config.tSettle Config.initPayload := hops.trans (expandInitdisp_eq _ _).symm
  have hn : 14 + 29 * (10 + payloadLength) = (expandInitdisp Config.tSettle Config.initPayload).length := by
    rw [expandInitdisp_length, hlen]
    rfl
  rw [hn, Nat.add_comm 1] at hs ⊢
  exact ⟨step_of_reserved (op := .initdisp) hs ho, fun hr =>
    accept_of_start_events (op := .initdisp) hs ho hr (expandInitdisp_record _ _) fun _ => rfl⟩

/-- Settles O36: the preamble drives all four lines, and the frames after it leave the clock low, chip-select idle and the
data at the last bit sent. -/
theorem initdispLeavesTheListedPins : Obligations.InitdispLeavesTheListedPins := by
  intro s settle payload
  have hne : initFrames payload ≠ [] := List.cons_ne_nil _ _
  have hlast := commandFrames_last_bit Config.opcDison (payload Config.opcDison)
  rw [expandInitdisp, eventsOf_append, Pins.replay_append, replay_initPreamble, replay_framesOps hne]
  simp only [initFrames_eq_append_dison payload, List.getLast_append_of_ne_nil _ (commandFrames_ne_nil _ _), hlast]
  rfl

/-- Settles O39: FILLRECT is RSVD, RANGE, or a list of frames that runs to its end. -/
theorem fillrectSendsWindowAndPixels : Obligations.FillrectSendsWindowAndPixels := by
  intro s w later x y wd h color n ops hx hy hwd hh hcolor hn hops hs ho
  have hread : Op.read w .fillrect = .fillrect x y wd h color := by rw [hx, hy, hwd, hh, hcolor]; rfl
  obtain rfl : ops = expandFillrect x y wd h color := by
    rw [hops, expandFillrect_eq, packPair_flatMap, ofNat_byte_mod, ofNat_byte_mod, hn]
    rfl
  have hlen : 29 * (7 + 3 * n) = (expandFillrect x y wd h color).length := by rw [expandFillrect_length, hn]; rfl
  rw [hlen, Nat.add_comm 1] at hs ⊢
  rw [← hread]
  refine ⟨step_of_reserved (op := .fillrect) hs ho, fun hr hout => ?range, fun hr hx₁ hy₁ hw₀ hw₁ hh₀ hh₁ => ?legal⟩
  case range =>
    have hnot : ¬rectInRange x y wd h = true := by rw [rectInRange_iff]; omega
    refine accept_of_takeFault (op := .fillrect) hs ho hr fun t => ?_
    rw [hread, exec_fillrect_out_of_range color hnot]
  case legal =>
    have hin : rectInRange x y wd h = true := (rectInRange_iff x y wd h).mpr ⟨hx₁, hy₁, hw₀, hw₁, hh₀, hh₁⟩
    refine accept_of_start_events (op := .fillrect) hs ho hr (framesOps_record _) fun t => ?_
    rw [hread, exec_fillrect_in_range color hin]

/-- Settles O41: the middle byte holds a nibble of each colour, and the frames after the first seven are the pairs. -/
theorem pixelPairPacksTwoColours : Obligations.PixelPairPacksTwoColours := by
  refine ⟨fun c1 c2 => ?bytes, fun x y w h color => ?repeated, by decide, by decide⟩
  case bytes =>
    exact ⟨_, _, _, rfl, by rw [packPair_middle]; exact packPair_concat c1 c2, rfl, packPair_middle _ _, rfl⟩
  case repeated =>
    rw [fillFrames_eq]
    rfl

/-- Settles O42: CLEARSCR starts the FILLRECT of the full screen, whose frames all record events and run to their end. -/
theorem clearscrIsTheFullBlackRectangle : Obligations.ClearscrIsTheFullBlackRectangle := by
  intro s
  have hin : rectInRange 0#8 0#8 131#8 131#8 = true := by decide
  refine ⟨rfl, (exec_fillrect_in_range _ hin s).symm, by decide, ?frames, ?count, clearscr_length, fun hnr => ?run⟩
  case frames =>
    rw [fillFrames_eq, pairCount_screen, black_pixel_frames]
    rfl
  case count => rw [fillFrames_length, pairCount_screen]
  case run =>
    rw [← clearscr_length] at hnr ⊢
    exact run_of_events (framesOps_record _) hnr

end Sys2Proof.Machine
end

section
/-! PROOFS. The family `43_pulse.md`: what one sample does to the pulse loop, the loop over a run of samples of the level its
phase waits through and over the edge that ends the phase, what a run counts, and the threshold classifier. -/

namespace Sys2Proof.Machine

/-! ### Counting a sample (R503) -/

theorem eq_maxTicks_iff (c : TickCount) : c = maxTicks ↔ c.toNat = 2 ^ 32 - 1 := by
  rw [← BitVec.toNat_inj, maxTicks, BitVec.toNat_allOnes]

theorem incSat_of_full {c : TickCount} (ov : Bool) (h : c.toNat = 2 ^ 32 - 1) :
    (incSat c ov).1 = c ∧ (incSat c ov).2 = true := by
  rw [(eq_maxTicks_iff c).mpr h, incSat_full]
  exact ⟨rfl, rfl⟩

theorem incSat_of_below {c : TickCount} (ov : Bool) (h : c.toNat < 2 ^ 32 - 1) :
    (incSat c ov).1.toNat = c.toNat + 1 ∧ (incSat c ov).2 = ov := by
  rw [incSat_below ov fun hfull => Nat.ne_of_lt h ((eq_maxTicks_iff c).mp hfull)]
  exact ⟨BitVec.toNat_add_of_lt (Nat.lt_pred_iff.mp h), rfl⟩

/-- The count of `n` samples from zero, with its overflow flag. -/
def ticksOf (n : Nat) : TickCount × Bool := (BitVec.ofNat Config.tickWidth (min n (2 ^ 32 - 1)), decide (2 ^ 32 - 1 < n))

theorem ticksOf_toNat (n : Nat) : (ticksOf n).1.toNat = min n (2 ^ 32 - 1) :=
  Nat.mod_eq_of_lt (Nat.lt_of_le_of_lt (Nat.min_le_right _ _) (by decide))

/-- Counting one more sample goes from the count of `n` to that of `n + 1`, at saturation too. -/
theorem incSat_ticksOf (n : Nat) : incSat (ticksOf n).1 (ticksOf n).2 = ticksOf (n + 1) := by
  have hn := ticksOf_toNat n
  have hn1 := ticksOf_toNat (n + 1)
  by_cases hlt : n < 2 ^ 32 - 1
  · obtain ⟨hcount, hflag⟩ := incSat_of_below (c := (ticksOf n).1) (ticksOf n).2 (by omega)
    refine Prod.ext (BitVec.eq_of_toNat_eq (by omega)) ?_
    rw [hflag, ticksOf, ticksOf, decide_eq_decide]
    omega
  · obtain ⟨hcount, hflag⟩ := incSat_of_full (c := (ticksOf n).1) (ticksOf n).2 (by omega)
    refine Prod.ext (hcount.trans (BitVec.eq_of_toNat_eq (by omega))) (hflag.trans ?_)
    exact (decide_eq_true (by omega)).symm

theorem countHigh_iterate (n : Nat) (c : Counts) :
    Counts.countHigh^[n] { c with hc := 0#32, ovh := false } = { c with hc := (ticksOf n).1, ovh := (ticksOf n).2 } := by
  induction n with
  | zero => rfl
  | succ n ih => rw [Function.iterate_succ_apply', ih, Counts.countHigh, incSat_ticksOf]

theorem countLow_iterate (n : Nat) (c : Counts) :
    Counts.countLow^[n] { c with lc := 0#32, ovl := false } = { c with lc := (ticksOf n).1, ovl := (ticksOf n).2 } := by
  induction n with
  | zero => rfl
  | succ n ih => rw [Function.iterate_succ_apply', ih, Counts.countLow, incSat_ticksOf]

/-! ### One sample (R501, R502) -/

/-- Reading a level is no event (R203). -/
theorem level_trace (p : Pin) (s : State) : (level p s).2.trace = s.trace := by
  obtain ⟨env, draws, hframe⟩ := level_frame p s
  rw [hframe]

theorem step_of_level {s t : State} {ch : Channel} {ph : Phase} {c : Counts} {b : Bool} (hr : s.rstN = true)
    (hq : s.seq = .pulse ch ph c) (hl : level (.pulse ch) (s.pass 1) = (b, t)) :
    step s = .next (pulseAfter ch ph c b t) := by
  rw [step_of_sample (activity_sample hr hq), pulseStep_eq_pulseAfter_pass, hl]

/-- The pulse loop overwrites the sequencer position whatever it was. -/
theorem pulseAfter_setSeq (ch : Channel) (ph : Phase) (c : Counts) (b : Bool) (s : State) (q : Seq) :
    pulseAfter ch ph c b (s.setSeq q) = pulseAfter ch ph c b s := by
  unfold pulseAfter
  cases pulseNext ch ph c b with
  | some q' => rfl
  | none => rfl

/-- `s` after `n` steps that each took one of the environment's levels, of which `rest` are left. -/
def State.sampled (s : State) (n : Nat) (rest : List Bool) : State :=
  { s.pass n with inputs := { (s.pass n).inputs with env := rest } }

theorem noReset_sampled {s : State} {m n : Nat} (l : List Bool) (h : s.noReset (m + n)) : (s.sampled m l).noReset n :=
  noReset_congr (s := s.pass m) rfl (noReset_pass h)

theorem level_sampled (s : State) (ch : Channel) (j : Nat) (b : Bool) (rest : List Bool) (q : Seq) :
    level (.pulse ch) (((s.sampled j (b :: rest)).setSeq q).pass 1) = (b, (s.sampled (j + 1) rest).setSeq q) := by
  rw [level, drawEnv_supplied (b := b) (rest := rest) _ rfl]
  simp [State.sampled, State.pass, State.setSeq, List.drop_drop]

/-! ### Runs of samples (R502, R507): `run j t` has come to a position of the pulse loop and takes further samples -/

/-- The level that a phase waits through (R507). -/
def Phase.waits : Phase → Bool
  | .p1 => true
  | .p2 => false
  | .p3 => true
  | .p4 => false

/-- What a phase does to the counts at a sample that it waits through (R502). -/
def Phase.count : Phase → Counts → Counts
  | .p1 => id
  | .p2 => id
  | .p3 => Counts.countHigh
  | .p4 => Counts.countLow

theorem pulseAfter_waits (ch : Channel) (ph : Phase) (c : Counts) (s : State) :
    pulseAfter ch ph c ph.waits s = s.setSeq (.pulse ch ph (ph.count c)) := by
  cases ph <;> rfl

section Sampling
variable {s t : State} {ch : Channel} {ph : Phase} {c : Counts} {j n : Nat} {rest : List Bool}

theorem run_sample {b : Bool} (hnr : s.noReset (j + 1))
    (h : run j t = .next ((s.sampled j (b :: rest)).setSeq (.pulse ch ph c))) :
    run (j + 1) t = .next (pulseAfter ch ph c b (s.sampled (j + 1) rest)) := by
  have hr : (s.sampled j (b :: rest)).rstN = true := noReset_rstN (noReset_sampled _ hnr)
  have hstep := step_of_level (s := (s.sampled j (b :: rest)).setSeq (.pulse ch ph c)) hr rfl (level_sampled ..)
  rw [run_add j 1 h, run_one hstep, pulseAfter_setSeq]

theorem run_zero_sampled {q : Seq} {l : List Bool} (hq : s.seq = q) (henv : s.inputs.env = l) :
    run 0 s = .next ((s.sampled 0 l).setSeq q) := by
  subst hq henv
  rfl

/-- Over samples of the level its phase waits through, the pulse loop stays in the phase. -/
theorem run_waiting (hnr : s.noReset (j + n))
    (h : run j t = .next ((s.sampled j (List.replicate n ph.waits ++ rest)).setSeq (.pulse ch ph c))) :
    run (j + n) t = .next ((s.sampled (j + n) rest).setSeq (.pulse ch ph (ph.count^[n] c))) := by
  induction n generalizing j c with
  | zero => exact h
  | succ n ih =>
    have hone := run_sample (noReset_mono (by omega) hnr) h
    rw [pulseAfter_waits] at hone
    rw [← Nat.succ_add_eq_add_succ] at hnr ⊢
    exact ih hnr hone

/-- The pulse loop goes on through the samples that its phase waits through and the one that ends the phase. -/
theorem run_through_phase (hnr : s.noReset (j + n + 1))
    (h : run j t =
      .next ((s.sampled j (List.replicate n ph.waits ++ (!ph.waits) :: rest)).setSeq (.pulse ch ph c))) :
    run (j + n + 1) t = .next (pulseAfter ch ph (ph.count^[n] c) (!ph.waits) (s.sampled (j + n + 1) rest)) :=
  run_sample hnr (run_waiting (noReset_mono (Nat.le_succ _) hnr) h)

end Sampling

/-- The counts of a whole measurement: P1 and P2 count nothing, P3 and P4 one run each, from zero. -/
theorem count_through_phases (k m a b : Nat) :
    Phase.p4.count^[b] (Phase.p3.count^[a] (Phase.p2.count^[m] (Phase.p1.count^[k] Counts.zero))) =
      { hc := (ticksOf a).1, lc := (ticksOf b).1, ovh := (ticksOf a).2, ovl := (ticksOf b).2 } := by
  have hp1 : Phase.p1.count^[k] Counts.zero = Counts.zero := congrFun (Function.iterate_id k) _
  have hp2 : Phase.p2.count^[m] Counts.zero = Counts.zero := congrFun (Function.iterate_id m) _
  have hp3 : Phase.p3.count^[a] Counts.zero = { Counts.zero with hc := (ticksOf a).1, ovh := (ticksOf a).2 } :=
    countHigh_iterate a Counts.zero
  rw [hp1, hp2, hp3]
  exact countLow_iterate b { Counts.zero with hc := (ticksOf a).1, ovh := (ticksOf a).2 }

/-! ### The threshold classifier (R510) -/

theorem classify_eq (value : Word32) :
    classify value = if value.toNat < 7920 then 0b01#2 else if 9920 < value.toNat then 0b10#2 else 0b00#2 := rfl

/-! ### The obligations -/

/-- Settles O43: the step is one sample, and the table of R502 has an entry for each phase and level. -/
theorem pulseSampleMovesTheLoop : Obligations.PulseSampleMovesTheLoop := by
  refine ⟨fun _ _ => rfl, fun s ch c b t hnr hl => ?sample⟩
  have hstep (ph : Phase) (hq : s.seq = .pulse ch ph c) : step s = .next (pulseAfter ch ph c b t) :=
    step_of_level (noReset_rstN hnr) hq hl
  refine ⟨fun hq => ?p1, fun hq => ?p2, fun hq hb => ?p3High, fun hq hb => ?p3Low, fun hq hb => ?p4Low,
    fun hq hb => ?p4High, ?trace⟩
  case p1 => rw [hstep .p1 hq]; cases b <;> rfl
  case p2 => rw [hstep .p2 hq]; cases b <;> rfl
  case p3High => subst hb; exact ⟨_, _, hstep .p3 hq, incSat_of_full c.ovh, incSat_of_below c.ovh⟩
  case p3Low => subst hb; exact hstep .p3 hq
  case p4Low => subst hb; exact ⟨_, _, hstep .p4 hq, incSat_of_full c.ovl, incSat_of_below c.ovl⟩
  case p4High => subst hb; exact hstep .p4 hq
  case trace =>
    have htrace := level_trace (.pulse ch) (s.pass 1)
    rwa [hl] at htrace

/-- Settles O45: each of the four phases goes on through its run and the sample that ends it. -/
theorem readpulseMeasuresTheTwoRuns : Obligations.ReadpulseMeasuresTheTwoRuns := by
  intro s ch k m a b rest ha hb hnr henv
  obtain ⟨a, rfl⟩ := Nat.exists_eq_add_of_le' ha
  obtain ⟨b, rfl⟩ := Nat.exists_eq_add_of_le' hb
  have hsteps : k + 1 + m + (a + 1) + (b + 1) + 1 = 0 + k + 1 + m + 1 + a + 1 + b + 1 := by omega
  rw [hsteps] at hnr ⊢
  have hsamples : s.inputs.env = List.replicate k true ++ false :: (List.replicate m false ++ true ::
      (List.replicate a true ++ false :: (List.replicate b false ++ true :: rest))) := by
    simp [henv, List.replicate_succ]
  have hstart := run_zero_sampled (s := s.setSeq (.pulse ch .p1 Counts.zero)) rfl hsamples
  have hp1 := run_through_phase (ph := .p1) (noReset_mono (by omega) hnr) hstart
  have hp2 := run_through_phase (ph := .p2) (noReset_mono (by omega) hnr) hp1
  have hp3 := run_through_phase (ph := .p3) (noReset_mono (by omega) hnr) hp2
  have hp4 := run_through_phase (ph := .p4) hnr hp3
  rw [count_through_phases] at hp4
  exact ⟨_, rfl, hp4⟩

/-- Settles O46: the samples are of the level that the phase waits through. -/
theorem readpulseHangsWithoutAnEdge : Obligations.ReadpulseHangsWithoutAnEdge := by
  intro s ch ph c level n rest hmem hq hnr henv
  have hwaits : (ph, level) ∈ [Phase.p1, .p2, .p3, .p4].map fun ph => (ph, ph.waits) := hmem
  obtain ⟨_, -, hpair⟩ := List.mem_map.mp hwaits
  cases hpair
  have hrun := run_waiting (j := 0) (by rwa [Nat.zero_add]) (run_zero_sampled hq henv)
  rw [Nat.zero_add] at hrun
  exact ⟨_, _, hrun, rfl, by rw [readReg_status, statusWord_busy]; rfl, rfl, rfl, rfl, rfl⟩

/-- Settles O47: CLASSIFY is RSVD or the one micro-operation `SETCLASS` of the code of its value. -/
theorem classifyComparesWithBothThresholds : Obligations.ClassifyComparesWithBothThresholds := by
  intro s w later value code hs ho hvalue hcode
  rw [hvalue, ← classify_eq] at hcode
  subst hvalue hcode
  exact ⟨step_of_reserved (op := .classify) hs ho,
    fun hr => accept_of_start_one (op := .classify) hs ho hr fun _ => rfl⟩

end Sys2Proof.Machine
end

section
/-! PROOFS. The family `60_exceptions.md`: what the checks of `accept` come to for each outcome of decoding and what a meaning
does with illegal operands, and what raising a fault writes and no step without a reset clears. -/

namespace Sys2Proof.Machine

/-! ### Illegal operands (R305, R604) -/

/-- The fault of a command whose operands are illegal (R601): RANGE for FILLRECT; the others that can fault are pin commands. -/
def operandCause : Instr → FaultCause
  | .fillrect _ _ _ _ _ => .range
  | _ => .badpin

theorem outPin_of_not_isOutput {p : PinIndex} (h : p.isOutput = false) : outPin p = none :=
  Option.not_isSome_iff_eq_none.mp (by simp [outPin_isSome, h])

theorem anyPin_of_not_isPin {p : PinIndex} (h : p.isPin = false) : anyPin p = none :=
  Option.not_isSome_iff_eq_none.mp (by simp [anyPin_isSome, h])

/-- R600: an instruction with illegal operands is a FILLRECT or a pin command, and its meaning is its fault. -/
theorem exec_of_not_wf {i : Instr} (hwf : i.wf = false) (s : State) : exec i s = takeFault (operandCause i) i s := by
  cases i with
  | fillrect x y w h color =>
    have hr : rectInRange x y w h = false := (rectInRange_eq_rectOk x y w h).trans hwf
    exact exec_fillrect_out_of_range color (Bool.eq_false_iff.mp hr) s
  | pinset pin => exact exec_pinset_of_no_pin (outPin_of_not_isOutput hwf) s
  | pinclr pin => exact exec_pinclr_of_no_pin (outPin_of_not_isOutput hwf) s
  | pintest pin => exact exec_pintest_of_no_pin (anyPin_of_not_isPin hwf) s
  | pindir pin mode => exact exec_pindir_of_no_pin (outPin_of_not_isOutput hwf) mode s
  | _ => cases hwf

/-! ### The checks of `accept`, by what the word decodes to (R310, R605) -/

theorem acceptCheck_of_no_code {w : Command} (h : ∀ op : Op, opOf w ≠ op.code) : acceptCheck w = some .badop :=
  if_pos ((decodeCommand_eq_badop_iff w).mp (decodeCommand_of_no_code h))

theorem acceptCheck_of_reserved {w : Command} {op : Op} (ho : opOf w = op.code) (hr : w &&& op.rsvd ≠ 0#64) :
    acceptCheck w = some .rsvd := by
  obtain ⟨hcode, hmask⟩ := (decodeCommand_eq_rsvd_iff w).mp (decodeCommand_of_reserved ho hr)
  exact (if_neg (not_not.mpr hcode)).trans (if_pos hmask)

/-- The two BADPIN checks of R310 together leave the output pins. -/
theorem outputPin_check (p : PinIndex) :
    (if p.toNat ∈ [6, 7] then some FaultCause.badpin else if p.toNat ∈ [4, 5] then some .badpin else none)
      = if p.isOutput then none else some .badpin := by
  revert p
  decide

/-- The first BADPIN check of R310 alone leaves the pins that exist. -/
theorem pin_check (p : PinIndex) :
    (if p.toNat ∈ [6, 7] then some FaultCause.badpin else none) = if p.isPin then none else some .badpin := by
  revert p
  decide

/-- The RANGE check of R310 leaves the rectangles on the screen. -/
theorem rect_check (x y w h : Byte) :
    (if ¬(x.toNat ≤ 130 ∧ y.toNat ≤ 130 ∧ 1 ≤ w.toNat ∧ w.toNat ≤ 131 ∧ 1 ≤ h.toNat ∧ h.toNat ≤ 131)
      then some FaultCause.range else none) = if rectOk x y w h then none else some .range := by
  simp only [← rectInRange_iff, rectInRange_eq_rectOk, ite_not]

/-- R310's operand checks on the bits of the word are those of the instruction it is. -/
theorem acceptCheck_of_clear {w : Command} {op : Op} (ho : opOf w = op.code) (hr : w &&& op.rsvd = 0#64) :
    acceptCheck w = if (op.read w).wf then none else some (operandCause (op.read w)) := by
  have hfield (lo len : Nat) : w.extractLsb' lo len = field w lo len := rfl
  have hop : (field w 0 8).toNat = op.code.toNat := congrArg BitVec.toNat ho
  rw [← reservedMask_code] at hr
  simp only [acceptCheck, hfield, hop, hr]
  cases op with
  | fillrect =>
    refine Eq.trans ?_ (rect_check (field w 8 8) (field w 16 8) (field w 24 8) (field w 32 8))
    simp [Op.code]
  | pinset | pinclr | pindir =>
    refine Eq.trans ?_ (outputPin_check (field w 8 3))
    simp [Op.code]
  | pintest =>
    refine Eq.trans ?_ (pin_check (field w 8 3))
    simp [Op.code]
  | _ => rfl

/-- R303: an `OP` that is no command's is the fault BADOP. -/
theorem step_of_no_code {s : State} {w : Command} {later : List (Option Command)} {n : Nat}
    (hs : s.Offering w later (n + 1)) (h : ∀ op : Op, opOf w ≠ op.code) :
    step s = .next (raiseFault .badop w (s.accepted later)) := by
  rw [step_of_accept_badop (activity_of_offering hs) (decodeCommand_of_no_code h), rejectStep, acceptState_eq hs.offers]

/-! ### What the fault record keeps (R109, R110, R602) -/

/-- The SEEN bit of a cause, bit `cause - 1` of the field (R109, R602). -/
theorem seenBit_getLsbD (c : FaultCause) (n : Nat) : (seenBit c).getLsbD n = (n + 4 == (causeCode c).toNat + 3) := by
  have htwoPow : seenBit c = BitVec.twoPow 4 ((causeCode c).toNat - 1) := by cases c <;> rfl
  have hcode : 1 ≤ (causeCode c).toNat ∧ (causeCode c).toNat ≤ 4 := by cases c <;> decide
  rw [htwoPow, BitVec.getLsbD_twoPow, Bool.eq_iff_iff]
  simp only [Bool.and_eq_true, decide_eq_true_eq, beq_iff_eq]
  omega

@[simp] theorem FaultLog.add_seen (f : FaultLog) (c : FaultCause) (w : Command) :
    (f.add c w).seen = f.seen ||| seenBit c := by
  cases h : f.valid
  · rw [FaultLog.add_first c w h]
  · rw [FaultLog.add_later c w h]

/-- R602 on the register: a fault sets the SEEN bit `cause + 3` of `FAULT_INFO` and no other. -/
theorem faultInfoWord_add_seen (f : FaultLog) (c : FaultCause) (w : Command) (n : Nat) :
    (faultInfoWord (f.add c w)).getLsbD (n + 4)
      = ((faultInfoWord f).getLsbD (n + 4) || n + 4 == (causeCode c).toNat + 3) := by
  simp [faultInfoWord_getLsbD, seenBit_getLsbD]

/-- What the record `f` holds is in `g` too: the first fault whole, and every SEEN bit. -/
def FaultLog.KeptIn (f g : FaultLog) : Prop :=
  (f.valid = true → g.valid = true ∧ g.cause = f.cause ∧ g.cmdLo = f.cmdLo ∧ g.cmdHi = f.cmdHi)
    ∧ f.seen &&& g.seen = f.seen

theorem FaultLog.keptIn_refl (f : FaultLog) : f.KeptIn f :=
  ⟨fun h => ⟨h, rfl, rfl, rfl⟩, BitVec.and_self⟩

theorem FaultLog.keptIn_add (f : FaultLog) (c : FaultCause) (w : Command) : f.KeptIn (f.add c w) := by
  refine ⟨fun h => ?first, ?seen⟩
  case first => rw [FaultLog.add_later c w h]; exact ⟨h, rfl, rfl, rfl⟩
  case seen => rw [FaultLog.add_seen]; ext i hi; simpa using Or.inl

/-! ### What a step does to the fault record (R600, R602) -/

theorem exec_faults {i : Instr} {s t : State} (h : exec i s = .next t) :
    t.faults = s.faults ∨ ∃ c w, t.faults = s.faults.add c w := by
  obtain ⟨a, ha⟩ := exec_answers i s
  rw [ha] at h
  cases h
  cases a with
  | starts q => exact .inl rfl
  | faults c => exact .inr ⟨c, commandWord i, rfl⟩

/-- A step without a reset leaves the fault record as it is or adds one fault to it. -/
theorem step_faults {s t : State} (hr : s.rstN = true) (h : step s = .next t) :
    t.faults = s.faults ∨ ∃ c w, t.faults = s.faults.add c w := by
  obtain ⟨-, hreset⟩ | ⟨ha, -⟩ | ⟨w, later, ha, -⟩ | ⟨op, rest, -, -, hq⟩ | ⟨ch, ph, c, -, -, hq⟩ := activity_cases s
  · cases hr.symm.trans hreset
  · rw [step_of_nothing ha] at h
    cases h
    exact .inl rfl
  · match hw : decodeCommand w with
    | .instr i =>
      rw [step_of_accept_instr ha hw] at h
      exact exec_faults (s := acceptState s) h
    | .badop =>
      rw [step_of_accept_badop ha hw] at h
      cases h
      exact .inr ⟨.badop, w, rfl⟩
    | .rsvd =>
      rw [step_of_accept_rsvd ha hw] at h
      cases h
      exact .inr ⟨.rsvd, w, rfl⟩
  · exact .inl (step_busy_keeps hr (by simp [hq]) h).2
  · exact .inl (step_busy_keeps hr (by simp [hq]) h).2

theorem step_keeps_faults {s t : State} (hr : s.rstN = true) (h : step s = .next t) : s.faults.KeptIn t.faults := by
  obtain hsame | ⟨c, w, hadd⟩ := step_faults hr h
  · rw [hsame]; exact FaultLog.keptIn_refl _
  · rw [hadd]; exact FaultLog.keptIn_add _ c w

/-! ### The obligations -/

/-- Settles O13: the first failing check is BADOP, RSVD or the operand fault of the meaning, as the word decodes. -/
theorem acceptanceFollowsTheOrderedChecks : Obligations.AcceptanceFollowsTheOrderedChecks := by
  intro s w later hs
  obtain ⟨hno, -⟩ | ⟨op, ho, hr, -⟩ | ⟨op, ho, hr, hd⟩ := decodeCommand_cases w
  · simp [acceptCheck_of_no_code hno, step_of_no_code hs hno]
  · simp [acceptCheck_of_reserved ho hr, step_of_reserved hs ho hr]
  · rw [acceptCheck_of_clear ho hr]
    cases hwf : (op.read w).wf with
    | false =>
      obtain ⟨-, hstep⟩ := accept_of_takeFault hs ho hr (exec_of_not_wf hwf)
      simp [hstep]
    | true =>
      obtain ⟨q, hq, hexec⟩ := startsBusy_of_wf hwf
      have hstep : step s = .next ((s.accepted later).setSeq q) := (step_of_read hs ho hr).trans (hexec _)
      exact ⟨by simp, fun _ => ⟨op.read w, q, hd, hwf, hq, hexec _, hstep⟩⟩

/-- Settles O48: the record after a fault is `FaultLog.add`, and a step without a reset does that or nothing to it. -/
theorem raisingAFaultRecordsIt : Obligations.RaisingAFaultRecordsIt := by
  refine ⟨fun s w e he => ?raise, fun s t hnr hstep => step_keeps_faults (noReset_rstN hnr) hstep⟩
  have hcodes : e ∈ [FaultCause.badop, .rsvd, .badpin, .range].map fun c => (c, (causeCode c).toNat) := he
  obtain ⟨c, -, rfl⟩ := List.mem_map.mp hcodes
  refine ⟨s.faults.add c w, rfl, fun h => ?first, fun h => ?later, FaultLog.add_valid _ c w,
    faultInfoWord_add_seen s.faults c w⟩
  case first => rw [FaultLog.add_first c w h]; exact ⟨(BitVec.ofNat_toNat 3 (causeCode c)).symm, rfl, rfl⟩
  case later => rw [FaultLog.add_later c w h]; exact ⟨rfl, rfl, rfl⟩

end Sys2Proof.Machine
end

section
/-! PROOFS. Encoding and decoding are inverse to each other: what the command word of every instruction decodes to, what a
wire frame stands for, and that the step runs every instruction by its word. -/

namespace Sys2Proof

/-! ### The words of the encoder read back (R301, R302) -/

theorem read_txframeWord (dc : Bool) (b : Byte) : Op.read (txframeWord dc b) .txframe = .txframe dc b := by
  have hdc : (txframeWord dc b).getLsbD 16 = dc := by
    simp (disch := decide) only [txframeWord, BitVec.getLsbD_or, place_bit_same, place_bit_other, Bool.or_false]
  have hb : field (txframeWord dc b) 8 8 = b := by
    simp (disch := decide) [txframeWord, field_or, field_place_same, field_place_other]
  rw [Op.read, hdc, hb]

theorem read_fillrectWord (x y w h : Byte) (color : Color) :
    Op.read (fillrectWord x y w h color) .fillrect = .fillrect x y w h color := by
  simp (disch := decide) [Op.read, fillrectWord, field_or, field_place_same, field_place_other]

theorem read_readpulseWord (ch : Channel) : Op.read (commandWord (.readpulse ch)) .readpulse = .readpulse ch := by
  simp (disch := decide) only [Op.read, commandWord, BitVec.getLsbD_or, place_bit_same, place_bit_other, Bool.or_false,
    channelOf_channelBit]

theorem read_classifyWord (value : Word32) : Op.read (commandWord (.classify value)) .classify = .classify value := by
  simp (disch := decide) [Op.read, commandWord, field_or, field_place_same, field_place_other]

theorem pinField_pinWord (op : Op) (pin : PinIndex) : pinField (pinWord op pin) = pin := by
  simp (disch := decide) [pinField, pinWord, field_or, field_place_same, field_place_other]

theorem read_pindirWord (pin : PinIndex) (mode : PinMode) :
    Op.read (commandWord (.pindir pin mode)) .pindir = .pindir pin mode := by
  have hmode : (commandWord (.pindir pin mode)).getLsbD 16 = modeBit mode := by
    simp (disch := decide) only [commandWord, BitVec.getLsbD_or, place_bit_same, place_bit_other, Bool.or_false]
  have hpin : pinField (commandWord (.pindir pin mode)) = pin := by
    simp (disch := decide) [pinField, commandWord, field_or, field_place_same, field_place_other]
  rw [Op.read, hmode, hpin, modeOf_modeBit]

theorem Op.code_injective {a b : Op} (h : a.code = b.code) : a = b :=
  Option.some.inj (by rw [← Op.ofByte_code a, h, Op.ofByte_code])

/-- A word of the encoder decodes to the fields it was made of. -/
theorem decodeCommand_of_read {w : Command} {op : Op} {i : Instr} (hw : opOf w = op.code ∧ w &&& op.rsvd = 0#64)
    (hread : op.read w = i) : decodeCommand w = .instr i :=
  hread ▸ decodeCommand_of hw.1 hw.2

theorem decodeCommand_txframeWord (dc : Bool) (b : Byte) : decodeCommand (txframeWord dc b) = .instr (.txframe dc b) :=
  decodeCommand_of_read (Laws.txframeWord_clear dc b) (read_txframeWord dc b)

theorem decodeCommand_fillrectWord (x y w h : Byte) (color : Color) :
    decodeCommand (fillrectWord x y w h color) = .instr (.fillrect x y w h color) :=
  decodeCommand_of_read (Laws.fillrectWord_clear x y w h color) (read_fillrectWord x y w h color)

/-- The word of a pin command whose only field is its pin. -/
theorem decodeCommand_pinWord {op : Op} {pin : PinIndex} {i : Instr} (hm : field op.rsvd 8 3 = 0#3)
    (hread : op.read (pinWord op pin) = i) : decodeCommand (pinWord op pin) = .instr i :=
  decodeCommand_of_read (Laws.oneField_clear op 8 pin (by decide) hm) hread

/-- The instruction that the block is asked for by a command word (R307, R422): of a wire row, the TXFRAME that sends it
(log entry 8); of a pseudo-instruction, its expansion. -/
def Instr.asCommand : Instr → Instr
  | .wireDisctl => .txframe false Config.opcDisctl
  | .wireComscn => .txframe false Config.opcComscn
  | .wireOscon => .txframe false Config.opcOscon
  | .wireSlpout => .txframe false Config.opcSlpout
  | .wireVolctr => .txframe false Config.opcVolctr
  | .wirePwrctr => .txframe false Config.opcPwrctr
  | .wireDisinv => .txframe false Config.opcDisinv
  | .wireDatctl => .txframe false Config.opcDatctl
  | .wireNop => .txframe false Config.opcNop
  | .wireDison => .txframe false Config.opcDison
  | .wirePaset => .txframe false Config.opcPaset
  | .wireCaset => .txframe false Config.opcCaset
  | .wireRamwr => .txframe false Config.opcRamwr
  | .wireData b => .txframe true b
  | i => i.decoded

/-- Every command word decodes to the command it asks for, whatever the operands are. -/
theorem decodeCommand_commandWord (i : Instr) : decodeCommand (commandWord i) = .instr i.asCommand := by
  cases i with
  | initdisp => decide
  | fillrect x y w h color => exact decodeCommand_fillrectWord x y w h color
  | clearscr => exact decodeCommand_fillrectWord _ _ _ _ _
  | readpulse ch =>
    exact decodeCommand_of_read (Laws.oneField_clear _ 8 _ (by decide) (by decide)) (read_readpulseWord ch)
  | classify value =>
    exact decodeCommand_of_read (Laws.oneField_clear _ 8 _ (by decide) (by decide)) (read_classifyWord value)
  | pinset pin => exact decodeCommand_pinWord (by decide) (congrArg Instr.pinset (pinField_pinWord _ pin))
  | pinclr pin => exact decodeCommand_pinWord (by decide) (congrArg Instr.pinclr (pinField_pinWord _ pin))
  | pintest pin => exact decodeCommand_pinWord (by decide) (congrArg Instr.pintest (pinField_pinWord _ pin))
  | pindir pin mode =>
    obtain ⟨op, ho, hr⟩ := Laws.ReservedClear.pindir pin mode
    have hop : opOf (commandWord (.pindir pin mode)) = Op.code .pindir := by
      simp (disch := decide) [opOf, commandWord, field_or, field_place_same, field_place_other]
    obtain rfl : op = .pindir := Op.code_injective (ho.symm.trans hop)
    exact decodeCommand_of_read ⟨ho, hr⟩ (read_pindirWord pin mode)
  | _ => exact decodeCommand_txframeWord _ _

/-! ### Wire frames (R320 to R322, R452) -/

/-- A frame is its D/C bit and its byte. -/
theorem frameWord_field (f : Frame) : frameWord (f.getLsbD 8) (field f 0 8) = f := by
  revert f
  decide

theorem field_frameWord (dc : Bool) (b : Byte) : field (frameWord dc b) 0 8 = b := by
  revert dc b
  decide

theorem decodeFrame_data (b : Byte) : decodeFrame (frameWord true b) = some (.wireData b) := by
  rw [decodeFrame, Machine.frameWord_flag, field_frameWord, if_pos rfl]

/-- The op-code table read both ways: a row's instruction is encoded as the frame of its op-code. -/
theorem encode_wireTable : ∀ e ∈ wireTable, encode e.2 = .frame (frameWord false e.1) := by
  decide

theorem encode_of_wireOpcode {b : Byte} {i : Instr} (h : wireOpcode b = some i) : encode i = .frame (frameWord false b) := by
  obtain ⟨e, he, rfl⟩ := Option.map_eq_some_iff.mp h
  have hb : e.1 = b := by simpa using List.find?_some he
  rw [encode_wireTable e (List.mem_of_find?_eq_some he), hb]

theorem encode_of_decodeFrame {f : Frame} {i : Instr} (h : decodeFrame f = some i) : encode i = .frame f := by
  unfold decodeFrame at h
  split at h
  · next hdata =>
    cases h
    rw [encode, ← hdata, frameWord_field]
  · next hcommand =>
    rw [encode_of_wireOpcode h, ← Bool.eq_false_iff.mpr hcommand, frameWord_field]

theorem decode_command_of {w : Command} {i : Instr} (h : decodeCommand w = .instr i) : decode (.command w) = .instr i := by
  simp [decode, h]

theorem decode_frame_of {f : Frame} {i : Instr} (h : decodeFrame f = some i) : decode (.frame f) = .instr i := by
  simp [decode, h]

/-- A wire row's frame, and every other instruction's command word, decodes to what the code stands for. -/
theorem decode_encode (i : Instr) : decode (encode i) = .instr i.decoded := by
  cases i with
  | wireData b => exact decode_frame_of (decodeFrame_data b)
  | wireDisctl | wireComscn | wireOscon | wireSlpout | wireVolctr | wirePwrctr | wireDisinv | wireDatctl | wireNop
  | wireDison | wirePaset | wireCaset | wireRamwr => decide
  | _ => exact decode_command_of (decodeCommand_commandWord _)

namespace Machine

/-- A pseudo-instruction and a wire row do what the command does that asks for them (R307, R322, R423). -/
theorem exec_asCommand (i : Instr) (s : State) : exec i.asCommand s = exec i s := by
  cases i with
  | clearscr =>
    have hin : rectInRange 0#8 0#8 131#8 131#8 = true := by decide
    exact exec_fillrect_in_range Config.black hin s
  | _ => rfl

theorem step_of_decoded {s : State} {w : Command} {later : List (Option Command)} {i : Instr} (hs : s.Offering w later 1)
    (hw : decodeCommand w = .instr i) : step s = exec i (s.accepted later) := by
  rw [step_of_accept_instr (activity_of_offering hs) hw, acceptState_eq hs.offers]

/-! ### The obligations -/

/-- Settles O14: each word's fields are read back where they were placed, and each wire row's frame is found in the table. -/
theorem decodingAnEncodedInstructionGivesItBack : Obligations.DecodingAnEncodedInstructionGivesItBack :=
  decode_encode

/-- Settles O15: `OP` and the fields cover every bit that is not reserved, and a frame is its D/C bit and its byte. -/
theorem encodingADecodedWordGivesItBack : Obligations.EncodingADecodedWordGivesItBack := by
  refine ⟨fun w i h => ?_, fun f i => encode_of_decodeFrame⟩
  obtain ⟨op, ho, hr, rfl⟩ := decodeCommand_instr h
  exact commandWord_read_of_clear ho hr

/-- Settles O16: the words evaluated. -/
theorem exampleWordsDecodeAsWritten : Obligations.ExampleWordsDecodeAsWritten := by
  unfold Obligations.ExampleWordsDecodeAsWritten
  decide

/-- Settles O17: the word decodes to the command that asks for the instruction, whose meaning is the instruction's. -/
theorem stepRunsEveryInstructionByItsWord : Obligations.StepRunsEveryInstructionByItsWord :=
  fun i _ _ hs => (step_of_decoded hs (decodeCommand_commandWord i)).trans (exec_asCommand i _)

/-- Settles O18: an idle block with a word offered accepts it. -/
theorem stepRunsTheDecodedInstruction : Obligations.StepRunsTheDecodedInstruction :=
  fun _ _ _ _ hs hw => step_of_decoded hs hw

/-- Settles O19: a numeric operand is taken by its size alone, and the lines are evaluated. -/
theorem assemblerTakesExactlyTheFittingOperands : Obligations.AssemblerTakesExactlyTheFittingOperands := by
  refine ⟨fun len cs n h => by rw [fitting, h], fun len cs h => by rw [fitting, h], ?lines⟩
  case lines => decide

end Machine

end Sys2Proof
end

section
/-! PROOFS. What every step keeps: what a step can do, with the next state it gives, said once over all steps; which step
writes which piece of state; and that each kind of step keeps the machine's invariant. -/

namespace Sys2Proof.Machine

/-! ### What a command can start (R202, R502, R510) -/

theorem legal_ofList (ops : List MicroOp) : (Seq.ofList ops).legal = ops.all MicroOp.classLegal := by
  cases ops with
  | nil => rfl
  | cons op rest => rfl

/-- A `SETCLASS` records no event. -/
theorem legal_ofList_of_record {ops : List MicroOp} (h : ∀ op ∈ ops, op.event.isSome) :
    (Seq.ofList ops).legal = true := by
  rw [legal_ofList, List.all_eq_true]
  intro op hop
  have hevent := h op hop
  cases op with
  | setclass c => cases hevent
  | _ => rfl

/-- The code 11 is never produced (R510). -/
theorem classify_ne_three (value : Word32) : classify value ≠ 0b11#2 := by
  rw [classify_eq]
  split_ifs <;> decide

/-- A command with legal operands puts the sequencer where the invariant allows it. -/
theorem exec_starts_legal {i : Instr} (hwf : i.wf = true) (s : State) :
    ∃ q : Seq, q.legal = true ∧ exec i s = .next (s.setSeq q) := by
  cases i with
  | initdisp => exact ⟨_, legal_ofList_of_record (expandInitdisp_record _ _), rfl⟩
  | fillrect x y w h color =>
    exact ⟨_, legal_ofList_of_record (framesOps_record _),
      exec_fillrect_in_range color ((rectInRange_eq_rectOk x y w h).trans hwf) s⟩
  | clearscr => exact ⟨_, legal_ofList_of_record (framesOps_record _), rfl⟩
  | readpulse ch => exact ⟨_, rfl, rfl⟩
  | classify value =>
    have hlegal : (Seq.run (.setclass (classify value)) []).legal = true := by
      simp [Seq.legal, MicroOp.classLegal, classify_ne_three]
    exact ⟨_, hlegal, rfl⟩
  | pinset pin =>
    obtain ⟨p, hp⟩ := outPin_of_isOutput hwf
    exact ⟨.run (.wr p true) [], rfl, exec_pinset_of_pin hp s⟩
  | pinclr pin =>
    obtain ⟨p, hp⟩ := outPin_of_isOutput hwf
    exact ⟨.run (.wr p false) [], rfl, exec_pinclr_of_pin hp s⟩
  | pintest pin =>
    obtain ⟨p, hp⟩ := anyPin_of_isPin hwf
    exact ⟨.run (.tst p) [], rfl, exec_pintest_of_pin hp s⟩
  | pindir pin mode =>
    obtain ⟨p, hp⟩ := outPin_of_isOutput hwf
    exact ⟨.run (.dirw p mode) [], rfl, exec_pindir_of_pin hp mode s⟩
  | _ => exact ⟨_, legal_ofList_of_record (frameOps_record _), rfl⟩

/-! ### What a step can do (R202, R310, R700) -/

/-- What an acceptance comes to: the sequencer starts at a position the invariant allows, or a fault is recorded. -/
inductive Accepted (s : State) : State → Prop where
  | starts (q : Seq) (hlegal : q.legal = true) : Accepted s (s.setSeq q)
  | faults (c : FaultCause) (w : Command) : Accepted s (raiseFault c w s)

theorem exec_accepted {i : Instr} {s t : State} (h : exec i s = .next t) : Accepted s t := by
  cases hwf : i.wf with
  | false =>
    rw [exec_of_not_wf hwf] at h
    cases h
    exact .faults (operandCause i) (commandWord i)
  | true =>
    obtain ⟨q, hlegal, hexec⟩ := exec_starts_legal hwf s
    rw [hexec] at h
    cases h
    exact .starts q hlegal

/-- What a step does, with the state it gives. -/
inductive Stepped (s : State) : State → Prop where
  | reset (hr : s.rstN = false) : Stepped s (resetStep s)
  | nothing (hr : s.rstN = true) (hq : s.seq = .idle) (ho : ∀ w later, s.inputs.offers ≠ some w :: later) :
    Stepped s (idleStep s)
  | accept {t : State} {w : Command} {later : List (Option Command)} (hr : s.rstN = true) (hq : s.seq = .idle)
    (ho : s.inputs.offers = some w :: later) (ht : Accepted (acceptState s) t) : Stepped s t
  | micro {op : MicroOp} {rest : List MicroOp} (hr : s.rstN = true) (hq : s.seq = .run op rest) :
    Stepped s (microStep op rest s)
  | sample {ch : Channel} {ph : Phase} {c : Counts} (hr : s.rstN = true) (hq : s.seq = .pulse ch ph c) :
    Stepped s (pulseStep ch ph c s)

theorem step_accepted {s t : State} {w : Command} (ha : s.activity = .accept w) (h : step s = .next t) :
    Accepted (acceptState s) t := by
  match hw : decodeCommand w with
  | .instr i => exact exec_accepted ((step_of_accept_instr ha hw).symm.trans h)
  | .badop =>
    rw [step_of_accept_badop ha hw] at h
    cases h
    exact .faults .badop w
  | .rsvd =>
    rw [step_of_accept_rsvd ha hw] at h
    cases h
    exact .faults .rsvd w

theorem step_stepped {s t : State} (h : step s = .next t) : Stepped s t := by
  obtain ⟨ha, hr⟩ | ⟨ha, hr, hq, ho⟩ | ⟨w, later, ha, hr, hq, ho⟩ | ⟨op, rest, ha, hr, hq⟩ | ⟨ch, ph, c, ha, hr, hq⟩ :=
    activity_cases s
  · rw [step_of_reset ha] at h
    cases h
    exact .reset hr
  · rw [step_of_nothing ha] at h
    cases h
    exact .nothing hr hq ho
  · exact .accept hr hq ho (step_accepted ha h)
  · rw [step_of_micro ha] at h
    cases h
    exact .micro hr hq
  · rw [step_of_sample ha] at h
    cases h
    exact .sample hr hq

/-- `s` after a reading of a level: less of the environment's supply, or more free draws (R106). -/
def State.drawn (s : State) (env : List Bool) (draws : Nat) : State :=
  { s with inputs := { s.inputs with env := env }, free := { s.free with draws := draws } }

/-- A sample moves the pulse loop on, or ends P4 and writes the four results (R502, R504). -/
theorem pulseStep_cases (ch : Channel) (ph : Phase) (c : Counts) (s : State) :
    ∃ env draws,
      (∃ b q, pulseNext ch ph c b = some q ∧ pulseStep ch ph c s = (s.tick.drawn env draws).setSeq q)
        ∨ ph = .p4 ∧ pulseStep ch ph c s = ((s.tick.drawn env draws).setTicks c).setSeq .idle := by
  obtain ⟨env, draws, hlevel⟩ := level_frame (.pulse ch) s.tick
  refine ⟨env, draws, ?_⟩
  rw [pulseStep, hlevel, pulseAfter]
  cases hnext : pulseNext ch ph c (level (.pulse ch) s.tick).1 with
  | some q => exact .inl ⟨_, q, hnext, rfl⟩
  | none =>
    refine .inr ⟨?_, rfl⟩
    unfold pulseNext at hnext
    split at hnext
    case h_8 => rfl
    all_goals cases hnext

/-! ### What a micro-operation writes (R203) -/

/-- A latch changes only in a `WR` of that pin (R104). -/
theorem perform_changes_lat {op : MicroOp} {s : State} {p : OutPin}
    (h : (perform op s).pins.lat.get p ≠ s.pins.lat.get p) : ∃ v, op = .wr p v := by
  cases op with
  | wr q v =>
    by_cases hpq : p = q
    · exact ⟨v, by rw [hpq]⟩
    · exact absurd (PerPin.get_set_other s.pins.lat q p v hpq) h
  | tst q =>
    obtain ⟨env, draws, hlevel⟩ := level_frame q s
    simp [perform, hlevel] at h
  | dirw q m => exact absurd rfl h
  | dly n => exact absurd rfl h
  | setclass c => exact absurd rfl h

/-- A direction changes only in a `DIRW` of that pin (R105). -/
theorem perform_changes_dir {op : MicroOp} {s : State} {p : OutPin}
    (h : (perform op s).pins.dir.get p ≠ s.pins.dir.get p) : ∃ m, op = .dirw p m := by
  cases op with
  | dirw q m =>
    by_cases hpq : p = q
    · exact ⟨m, by rw [hpq]⟩
    · exact absurd (PerPin.get_set_other s.pins.dir q p m hpq) h
  | tst q =>
    obtain ⟨env, draws, hlevel⟩ := level_frame q s
    simp [perform, hlevel] at h
  | wr q v => exact absurd rfl h
  | dly n => exact absurd rfl h
  | setclass c => exact absurd rfl h

/-- Only a `TST` writes PINBIT and takes a level of the environment (R113, R106). -/
theorem perform_without_tst {op : MicroOp} (s : State) (h : ∀ p, op ≠ .tst p) :
    (perform op s).pinbit = s.pinbit ∧ (perform op s).free = s.free ∧ (perform op s).inputs = s.inputs := by
  cases op with
  | tst p => exact absurd rfl (h p)
  | _ => exact ⟨rfl, rfl, rfl⟩

/-- A micro-operation records at most one event (R203). -/
theorem perform_trace_cases (op : MicroOp) (s : State) :
    (perform op s).trace = s.trace ∨ ∃ e, (perform op s).trace = s.trace ++ [e] := by
  rw [(perform_event op s).2]
  cases op.event with
  | none => exact .inl (List.append_nil _)
  | some e => exact .inr ⟨e, rfl⟩

/-! ### The invariant, operation by operation -/

theorem saturationOk_incSat {c : TickCount} {ov : Bool} (h : saturationOk c ov = true) :
    saturationOk (incSat c ov).1 (incSat c ov).2 = true := by
  by_cases hfull : c = maxTicks
  · rw [hfull, incSat_full]
    rfl
  · have hov : ov = false := by simpa [saturationOk, hfull] using h
    rw [incSat_below ov hfull, hov]
    rfl

theorem legal_pulse_iff (ch : Channel) (ph : Phase) (c : Counts) :
    (Seq.pulse ch ph c).legal = true ↔
      saturationOk c.hc c.ovh = true ∧ saturationOk c.lc c.ovl = true
        ∧ (ph = .p4 ∨ c.lc = 0#Config.tickWidth ∧ c.ovl = false)
        ∧ (ph = .p3 ∨ ph = .p4 ∨ c.hc = 0#Config.tickWidth ∧ c.ovh = false) := by
  simp [Seq.legal, and_assoc, or_assoc]

/-- A sample that does not end P4 keeps the counts saturating, and zero before their phase (R502, R503). -/
theorem pulseNext_legal {ch : Channel} {ph : Phase} {c : Counts} {b : Bool} {q : Seq}
    (h : pulseNext ch ph c b = some q) (hlegal : (Seq.pulse ch ph c).legal = true) : q.legal = true := by
  obtain ⟨hhigh, hlow, hzeroLow, hzeroHigh⟩ := (legal_pulse_iff ch ph c).mp hlegal
  match ph, b, h with
  | .p1, true, rfl => exact hlegal
  | .p1, false, rfl => exact hlegal
  | .p2, false, rfl => exact hlegal
  | .p2, true, rfl =>
    exact (legal_pulse_iff ..).mpr ⟨hhigh, hlow, .inr (hzeroLow.resolve_left Phase.noConfusion), .inl rfl⟩
  | .p3, true, rfl => exact (legal_pulse_iff ..).mpr ⟨saturationOk_incSat hhigh, hlow, hzeroLow, .inl rfl⟩
  | .p3, false, rfl => exact (legal_pulse_iff ..).mpr ⟨hhigh, hlow, .inl rfl, .inr (.inl rfl)⟩
  | .p4, false, rfl => exact (legal_pulse_iff ..).mpr ⟨hhigh, saturationOk_incSat hlow, .inl rfl, .inr (.inl rfl)⟩

/-- A fault record stays whole: a first fault sets its own SEEN bit, and a later one clears none (R602). -/
theorem FaultLog.legal_add {f : FaultLog} (h : f.legal = true) (c : FaultCause) (w : Command) :
    (f.add c w).legal = true := by
  cases hv : f.valid with
  | false =>
    rw [FaultLog.add_first c w hv]
    cases c <;> simp [FaultLog.legal, causeCode, seenBit]
  | true =>
    rw [FaultLog.add_later c w hv]
    simp only [FaultLog.legal, hv, if_true, Bool.and_eq_true] at h ⊢
    obtain ⟨hcode, hseen⟩ := h
    exact ⟨hcode, by rw [BitVec.getLsbD_or, hseen, Bool.true_or]⟩

/-- The reset values meet the invariant with the draw of the latest reset (R118, R700). -/
theorem inv_atReset (n : Nat) (inputs : Inputs) (draws : Nat) :
    (State.atReset (Config.resetLatch n) inputs { draws := draws, resets := n + 1 }).Inv where
  seqLegal := rfl
  faultsLegal := rfl
  ticksLegal := rfl
  classLegal := show 0#2 ≠ 0b11#2 by decide
  traceExact := ⟨n, rfl, rfl⟩

namespace State.Inv
variable {s : State} (h : s.Inv)
include h

/-- The input ports play no part in the invariant. -/
theorem tick : s.tick.Inv := ⟨h.seqLegal, h.faultsLegal, h.ticksLegal, h.classLegal, h.traceExact⟩

theorem takeOffer : s.takeOffer.Inv := ⟨h.seqLegal, h.faultsLegal, h.ticksLegal, h.classLegal, h.traceExact⟩

theorem drawn (env : List Bool) (draws : Nat) : (s.drawn env draws).Inv :=
  ⟨h.seqLegal, h.faultsLegal, h.ticksLegal, h.classLegal, h.traceExact⟩

theorem setSeq {q : Seq} (hq : q.legal = true) : (s.setSeq q).Inv :=
  ⟨hq, h.faultsLegal, h.ticksLegal, h.classLegal, h.traceExact⟩

theorem raiseFault (c : FaultCause) (w : Command) : (raiseFault c w s).Inv :=
  ⟨h.seqLegal, FaultLog.legal_add h.faultsLegal c w, h.ticksLegal, h.classLegal, h.traceExact⟩

theorem accepted {t : State} (ht : Accepted s t) : t.Inv := by
  cases ht with
  | starts q hlegal => exact h.setSeq hlegal
  | faults c w => exact h.raiseFault c w

theorem setTicks {c : Counts} (hhigh : saturationOk c.hc c.ovh = true) (hlow : saturationOk c.lc c.ovl = true) :
    (s.setTicks c).Inv :=
  ⟨h.seqLegal, h.faultsLegal, by simp [Ticks.legal, hhigh, hlow], h.classLegal, h.traceExact⟩

/-- A micro-operation moves the pins and the trace by the same event (R203). -/
theorem perform {op : MicroOp} (hop : op.classLegal = true) : (perform op s).Inv := by
  obtain ⟨hseq, hfaults, hticks, -, -, -, hresets⟩ := perform_keeps op s
  obtain ⟨hpins, htrace⟩ := perform_event op s
  obtain ⟨n, hn, hexact⟩ := h.traceExact
  refine ⟨hseq ▸ h.seqLegal, hfaults ▸ h.faultsLegal, hticks ▸ h.ticksLegal, ?classLegal, n, hresets.trans hn, ?pins⟩
  case classLegal =>
    cases op with
    | setclass c => simpa [MicroOp.classLegal, Machine.perform] using hop
    | _ => rw [perform_classCode _ _ (by simp)]; exact h.classLegal
  case pins => rw [hpins, htrace, Pins.replay_append, ← hexact]

theorem microStep {op : MicroOp} {rest : List MicroOp} (hq : s.seq = .run op rest) : (microStep op rest s).Inv := by
  have hlegal : (Seq.ofList (op :: rest)).legal = true := by
    rw [Seq.ofList_cons, ← hq]
    exact h.seqLegal
  rw [legal_ofList, List.all_cons, Bool.and_eq_true] at hlegal
  obtain ⟨hop, hrest⟩ := hlegal
  exact (h.tick.perform hop).setSeq ((legal_ofList rest).trans hrest)

theorem pulseStep {ch : Channel} {ph : Phase} {c : Counts} (hq : s.seq = .pulse ch ph c) : (pulseStep ch ph c s).Inv := by
  have hlegal : (Seq.pulse ch ph c).legal = true := hq ▸ h.seqLegal
  obtain ⟨env, draws, ⟨b, q, hnext, hstep⟩ | ⟨-, hstep⟩⟩ := pulseStep_cases ch ph c s
  · rw [hstep]
    exact (h.tick.drawn env draws).setSeq (pulseNext_legal hnext hlegal)
  · obtain ⟨hhigh, hlow, -⟩ := (legal_pulse_iff ch ph c).mp hlegal
    rw [hstep]
    exact ((h.tick.drawn env draws).setTicks hhigh hlow).setSeq rfl

end State.Inv

/-! ### The obligations -/

/-- Settles O54: the reset values, with the first draw of the latches. -/
theorem invariantHoldsAtReset : Obligations.InvariantHoldsAtReset :=
  inv_atReset 0 _ 0

/-- Settles O55: each kind of step is made of operations that keep the invariant. -/
theorem everyStepKeepsTheInvariant : Obligations.EveryStepKeepsTheInvariant := by
  intro s t hinv hstep
  cases step_stepped hstep with
  | reset hr => exact inv_atReset s.free.resets s.tick.inputs s.free.draws
  | nothing hr hq ho => exact hinv.tick.takeOffer
  | accept hr hq ho ht => exact hinv.tick.takeOffer.accepted ht
  | micro hr hq => exact hinv.microStep hq
  | sample hr hq => exact hinv.pulseStep hq

/-- Settles O6: an idle step and an acceptance move the input ports and at most `SEQ` or the fault record; a micro-operation
and a sample write what they name. -/
theorem eachFieldIsWrittenOnlyByItsNamedStep : Obligations.EachFieldIsWrittenOnlyByItsNamedStep := by
  intro s t hnr hstep
  cases step_stepped hstep with
  | reset hr => cases hr.symm.trans (noReset_rstN hnr)
  | nothing hr hq ho => simp [idleStep]
  | accept hr hq ho ht =>
    cases ht with
    | starts q hlegal => simp [acceptState]
    | faults c w => simp [acceptState, hq, ho]
  | @micro op rest hr hq =>
    obtain ⟨-, hfaults, hticks, -, -, hrdIdx, hresets⟩ := perform_keeps op s.tick
    refine ⟨fun p hp => ?lat, fun p hp => ?dir, fun hp => ?pinbit, fun hc => ?classCode, absurd hticks, absurd hfaults,
      perform_trace_cases op s.tick, hrdIdx, hresets⟩
    case lat =>
      obtain ⟨v, rfl⟩ := perform_changes_lat (s := s.tick) hp
      exact ⟨v, rest, hq⟩
    case dir =>
      obtain ⟨m, rfl⟩ := perform_changes_dir (s := s.tick) hp
      exact ⟨m, rest, hq⟩
    case pinbit =>
      by_contra hno
      exact hp (perform_without_tst s.tick fun p hop => hno ⟨p, rest, hop ▸ hq⟩).1
    case classCode =>
      by_contra hno
      exact hc (perform_classCode op s.tick fun c hop => hno ⟨c, rest, hop ▸ hq⟩)
  | @sample ch ph c hr hq =>
    obtain ⟨env, draws, ⟨b, q, -, ht⟩ | ⟨rfl, ht⟩⟩ := pulseStep_cases ch ph c s
    · simp [ht, State.drawn]
    · simp [ht, State.drawn, hq]

end Sys2Proof.Machine
end

section
/-! PROOFS. Runs of micro-operations: a list runs in its order, so many steps as it is long, and what is left of it keeps
the block busy. -/

namespace Sys2Proof.Machine

/-! ### A list of micro-operations performed (R202 to R204) -/

/-- What a micro-operation does, does not depend on what the sequencer holds. -/
theorem perform_setSeq (op : MicroOp) (s : State) (q : Seq) : perform op (s.setSeq q) = (perform op s).setSeq q := by
  cases op with
  | tst p => rw [perform, level_setSeq]; rfl
  | _ => rfl

/-- `s` after a list of micro-operations, each performed in a step of its own. -/
def State.performing : List MicroOp → State → State
  | [], s => s
  | op :: rest, s => State.performing rest (perform op (s.pass 1))

theorem noReset_perform {op : MicroOp} {s : State} {n : Nat} (h : s.noReset (n + 1)) :
    (perform op (s.pass 1)).noReset n := by
  obtain ⟨-, -, -, hrst, -⟩ := perform_keeps op (s.pass 1)
  exact noReset_congr hrst (noReset_pass (Nat.add_comm n 1 ▸ h))

theorem step_of_running {s : State} (hr : s.rstN = true) (op : MicroOp) (rest : List MicroOp) :
    step (s.setSeq (.run op rest)) = .next ((perform op (s.pass 1)).setSeq (Seq.ofList rest)) := by
  have hpass : (s.setSeq (.run op rest)).pass 1 = (s.pass 1).setSeq (.run op rest) := rfl
  rw [step_of_micro (activity_micro (s := s.setSeq (.run op rest)) hr rfl), microStep_eq_perform_pass, hpass,
    perform_setSeq]
  rfl

/-- Of a running list, as many micro-operations are performed as steps are taken; the others are still to perform. -/
theorem run_performing (done left : List MicroOp) {s : State} (hnr : s.noReset done.length) :
    run done.length (s.setSeq (Seq.ofList (done ++ left))) =
      .next ((State.performing done s).setSeq (Seq.ofList left)) := by
  induction done generalizing s with
  | nil => rfl
  | cons op rest ih =>
    have hstep : step (s.setSeq (.run op (rest ++ left))) =
        .next ((perform op (s.pass 1)).setSeq (Seq.ofList (rest ++ left))) :=
      step_of_running (noReset_rstN hnr) op (rest ++ left)
    exact (run_succ _ hstep).trans (ih (noReset_perform hnr))

theorem performing_keeps (ops : List MicroOp) (s : State) :
    (State.performing ops s).faults = s.faults ∧ (State.performing ops s).ticks = s.ticks
      ∧ (State.performing ops s).inputs.offers = s.inputs.offers := by
  induction ops generalizing s with
  | nil => exact ⟨rfl, rfl, rfl⟩
  | cons op rest ih =>
    obtain ⟨-, hfaults, hticks, -, hoffers, -⟩ := perform_keeps op (s.pass 1)
    obtain ⟨ihFaults, ihTicks, ihOffers⟩ := ih (perform op (s.pass 1))
    exact ⟨ihFaults.trans hfaults, ihTicks.trans hticks, ihOffers.trans hoffers⟩

/-- The pins and the trace follow the list's events, in its order (R204). -/
theorem performing_events (ops : List MicroOp) (s : State) :
    (State.performing ops s).pins = s.pins.replay (eventsOf ops)
      ∧ (State.performing ops s).trace = s.trace ++ eventsOf ops := by
  induction ops generalizing s with
  | nil => exact ⟨rfl, (List.append_nil _).symm⟩
  | cons op rest ih =>
    obtain ⟨hpins, htrace⟩ := perform_event op (s.pass 1)
    obtain ⟨ihPins, ihTrace⟩ := ih (perform op (s.pass 1))
    rw [eventsOf_cons, Pins.replay_append, ← List.append_assoc]
    exact ⟨ihPins.trans (congrArg (Pins.replay · _) hpins), ihTrace.trans (congrArg (· ++ _) htrace)⟩

theorem performing_classCode {ops : List MicroOp} (s : State) (h : ∀ c, MicroOp.setclass c ∉ ops) :
    (State.performing ops s).classCode = s.classCode := by
  induction ops generalizing s with
  | nil => rfl
  | cons op rest ih =>
    have hop : ∀ c, op ≠ .setclass c := fun c hc => h c (hc ▸ List.mem_cons_self)
    exact (ih _ fun c hc => h c (List.mem_cons_of_mem op hc)).trans (perform_classCode op (s.pass 1) hop)

theorem performing_without_tst {ops : List MicroOp} (s : State) (h : ∀ p, MicroOp.tst p ∉ ops) :
    (State.performing ops s).pinbit = s.pinbit ∧ (State.performing ops s).free = s.free
      ∧ (State.performing ops s).inputs.env = s.inputs.env := by
  induction ops generalizing s with
  | nil => exact ⟨rfl, rfl, rfl⟩
  | cons op rest ih =>
    have hop : ∀ p, op ≠ .tst p := fun p hp => h p (hp ▸ List.mem_cons_self)
    obtain ⟨hpinbit, hfree, hinputs⟩ := perform_without_tst (s.pass 1) hop
    obtain ⟨ihPinbit, ihFree, ihEnv⟩ := ih (perform op (s.pass 1)) fun p hp => h p (List.mem_cons_of_mem op hp)
    rw [hinputs] at ihEnv
    exact ⟨ihPinbit.trans hpinbit, ihFree.trans hfree, ihEnv⟩

/-! ### The obligations -/

/-- Settles O9: after as many steps as the list is long, all of it is performed. -/
theorem microOperationListsRunInOrderToTheEnd : Obligations.MicroOperationListsRunInOrderToTheEnd := by
  intro ops s hnr
  have hrun := run_performing ops [] hnr
  rw [List.append_nil] at hrun
  obtain ⟨hfaults, hticks, hoffers⟩ := performing_keeps ops s
  obtain ⟨hpins, htrace⟩ := performing_events ops s
  exact ⟨_, hrun, rfl, htrace, hpins, hfaults, hticks, performing_classCode s, performing_without_tst s, hoffers⟩

/-- Settles O10: after fewer steps than the list is long, something of it is still to perform. -/
theorem noCommandIsTakenBeforeTheListEnds : Obligations.NoCommandIsTakenBeforeTheListEnds := by
  intro ops s n hn hnr
  have hlen : (ops.take n).length = n := List.length_take_of_le hn.le
  have hrun := run_performing (ops.take n) (ops.drop n) (s := s) (hlen.symm ▸ hnr)
  rw [List.take_append_drop, hlen] at hrun
  have hleft : Seq.ofList (ops.drop n) ≠ .idle := Seq.ofList_ne_idle (by simpa using hn)
  have hbusy : (Seq.ofList (ops.drop n)).busy = true := by rw [Seq.busy_eq_bne_idle]; exact bne_iff_ne.mpr hleft
  obtain ⟨-, -, hoffers⟩ := performing_keeps (ops.take n) s
  exact ⟨_, hrun, hbusy, congrArg (!·) hbusy, hoffers, (performing_events (ops.take n) s).2⟩

end Sys2Proof.Machine
end

section
/-! PROOFS. Pin levels, the start of READPULSE, faults over a run, resets, and the end of a run. -/

namespace Sys2Proof.Machine

/-! ### Pin levels (R106) -/

/-- A pin that the block does not drive reads as a draw of the environment. -/
theorem level_undriven {q : Pin} {s : State} (h : ∀ p, q = .out p → s.pins.dir.get p = .inp) :
    level q s = drawEnv q s := by
  cases q with
  | pulse ch => rfl
  | out p => simp [level, Pins.drive_inp (h p rfl)]

/-! ### Faults over a run (R602) -/

theorem FaultLog.KeptIn.trans {f g k : FaultLog} (hfg : f.KeptIn g) (hgk : g.KeptIn k) : f.KeptIn k := by
  obtain ⟨hfirst, hseen⟩ := hfg
  obtain ⟨hfirst', hseen'⟩ := hgk
  refine ⟨fun hf => ?first, ?seen⟩
  case first =>
    obtain ⟨hg, hcause, hlo, hhi⟩ := hfirst hf
    obtain ⟨hk, hcause', hlo', hhi'⟩ := hfirst' hg
    exact ⟨hk, hcause'.trans hcause, hlo'.trans hlo, hhi'.trans hhi⟩
  case seen => rw [← hseen, BitVec.and_assoc, hseen']

/-- R606: every step answers a next state. -/
theorem exists_step_eq_next (s : State) : ∃ t, step s = .next t := by
  match ha : s.activity with
  | .reset => exact ⟨_, step_of_reset ha⟩
  | .nothing => exact ⟨_, step_of_nothing ha⟩
  | .micro op rest => exact ⟨_, step_of_micro ha⟩
  | .sample ch ph c => exact ⟨_, step_of_sample ha⟩
  | .accept w =>
    match hw : decodeCommand w with
    | .instr i =>
      obtain ⟨a, hexec⟩ := exec_answers i (acceptState s)
      exact ⟨_, (step_of_accept_instr ha hw).trans hexec⟩
    | .badop => exact ⟨_, step_of_accept_badop ha hw⟩
    | .rsvd => exact ⟨_, step_of_accept_rsvd ha hw⟩

/-- A run that answers a next state is a step and the run after it. -/
theorem run_succ_cases {s u : State} {n : Nat} (h : run (n + 1) s = .next u) :
    ∃ t, step s = .next t ∧ run n t = .next u := by
  obtain ⟨t, ht⟩ := exists_step_eq_next s
  exact ⟨t, ht, (run_succ n ht).symm.trans h⟩

/-- Every step passes on the port `rst_n` (R101, R700). -/
theorem step_rstIn {s t : State} (h : step s = .next t) : t.inputs.rstIn = s.inputs.rstIn.tail := by
  cases step_stepped h with
  | reset hr => rfl
  | nothing hr hq ho => rfl
  | accept hr hq ho ht =>
    cases ht with
    | starts q hlegal => rfl
    | faults c w => rfl
  | @micro op rest hr hq =>
    obtain ⟨-, -, -, hrst, -⟩ := perform_keeps op s.tick
    exact hrst
  | @sample ch ph c hr hq =>
    obtain ⟨env, draws, ⟨b, q, -, ht⟩ | ⟨-, ht⟩⟩ := pulseStep_cases ch ph c s
    · rw [ht]; rfl
    · rw [ht]; rfl

theorem noReset_step {s t : State} {n : Nat} (hnr : s.noReset (n + 1)) (h : step s = .next t) : t.noReset n :=
  noReset_congr (s := s.pass 1) ((step_rstIn h).trans List.drop_one.symm) (noReset_pass (Nat.add_comm n 1 ▸ hnr))

theorem run_keeps_faults {n : Nat} {s t : State} (hnr : s.noReset n) (h : run n s = .next t) :
    s.faults.KeptIn t.faults := by
  induction n generalizing s with
  | zero =>
    cases h
    exact FaultLog.keptIn_refl _
  | succ n ih =>
    obtain ⟨u, hstep, hrun⟩ := run_succ_cases h
    exact (step_keeps_faults (noReset_rstN hnr) hstep).trans (ih (noReset_step hnr hstep) hrun)

/-- Which command faults on an illegal operand, and with what (R601, R604). -/
theorem operand_fault_cases {i : Instr} (hwf : i.wf = false) :
    (operandCause i = .badpin ∧ ∃ p, i = .pinset p ∨ i = .pinclr p ∨ i = .pintest p ∨ ∃ m, i = .pindir p m)
      ∨ (operandCause i = .range ∧ ∃ x y w h c, i = .fillrect x y w h c) := by
  cases i with
  | fillrect x y w h color => exact .inr ⟨rfl, x, y, w, h, color, rfl⟩
  | pinset pin => exact .inl ⟨rfl, pin, .inl rfl⟩
  | pinclr pin => exact .inl ⟨rfl, pin, .inr (.inl rfl)⟩
  | pintest pin => exact .inl ⟨rfl, pin, .inr (.inr (.inl rfl))⟩
  | pindir pin mode => exact .inl ⟨rfl, pin, .inr (.inr (.inr ⟨mode, rfl⟩))⟩
  | _ => cases hwf

/-! ### A reset step (R700, R701) -/

theorem step_of_rstIn {s : State} {later : List Bool} (h : s.inputs.rstIn = false :: later) :
    step s = .next (resetStep s) :=
  step_of_reset (activity_reset (by simp [State.rstN, h]))

/-- Of the registers only `PINS` shows the latches, and none the input ports (R107). -/
theorem atReset_readReg (lat : PerPin Bool) (inputs : Inputs) (free : FreeCounters) {idx : BitVec 4} (h : idx ≠ 7#4) :
    (State.atReset lat inputs free).readReg idx = 0#32 := by
  rw [← reset_readReg h]
  unfold State.readReg
  split
  case h_8 hpins => exact absurd (BitVec.eq_of_toNat_eq hpins) h
  all_goals rfl

/-! ### The end of a run (R722) -/

/-- `s` after `n` steps in which the host offered nothing to an idle block. -/
def State.idled (s : State) (n : Nat) : State :=
  { s.pass n with inputs := { (s.pass n).inputs with offers := s.inputs.offers.drop n } }

theorem idled_idled (s : State) (m n : Nat) : (s.idled m).idled n = s.idled (m + n) := by
  simp [State.idled, State.pass, List.drop_drop]

theorem ended_idled {s : State} (n : Nat) (h : s.ended = true) : (s.idled n).ended = true := by
  obtain ⟨hidle, hnone⟩ := (ended_iff s).mp h
  exact (ended_iff _).mpr ⟨hidle, fun w hw => hnone w (List.mem_of_mem_drop hw)⟩

theorem step_of_ended {s : State} (hr : s.rstN = true) (h : s.ended = true) : step s = .next (s.idled 1) := by
  obtain ⟨hidle, hnone⟩ := (ended_iff s).mp h
  have hoffers : ∀ w later, s.inputs.offers ≠ some w :: later := fun w later ho => hnone w (ho ▸ List.mem_cons_self)
  rw [step_of_nothing (activity_nothing hr hidle hoffers)]
  simp [idleStep, State.tick, State.takeOffer, State.idled, State.pass]

/-- From the end of a run on, only the input ports move. -/
theorem run_of_ended {n : Nat} {s : State} (h : s.ended = true) (hnr : s.noReset n) : run n s = .next (s.idled n) := by
  induction n generalizing s with
  | zero => rfl
  | succ n ih =>
    have hstep := step_of_ended (noReset_rstN hnr) h
    rw [run_succ n hstep, ih (ended_idled 1 h) (noReset_step hnr hstep), idled_idled, Nat.add_comm]

/-! ### The obligations -/

/-- Settles O1: a driven pin shows its latch, and any other is a draw. -/
theorem pinLevelsAreLatchOrFreshDraw : Obligations.PinLevelsAreLatchOrFreshDraw := by
  refine fun s => ⟨fun p hp => ?driven, fun p => Pins.drive_inp, fun q hq => ?undriven⟩
  case driven =>
    have hdrive := Pins.drive_out hp
    exact ⟨hdrive, by simp [level, hdrive]⟩
  case undriven =>
    rw [level_undriven hq]
    exact ⟨fun b rest => drawEnv_supplied q, drawEnv_free q⟩

/-- Settles O44: READPULSE is RSVD or starts the pulse loop. -/
theorem readpulseStartsTheLoop : Obligations.ReadpulseStartsTheLoop := by
  intro s w later hs ho
  refine ⟨step_of_reserved (op := .readpulse) hs ho, fun hr ch hch => ⟨rfl, ?step⟩⟩
  case step =>
    subst hch
    exact step_of_read (op := .readpulse) hs ho hr

/-- Settles O49: each step of the run keeps what the record holds. -/
theorem firstFaultIsKeptUntilReset : Obligations.FirstFaultIsKeptUntilReset :=
  fun _ _ _ => run_keeps_faults

/-- Settles O50: legal operands start the command, illegal ones are its fault. -/
theorem onlyIllegalOperandsFaultInAMeaning : Obligations.OnlyIllegalOperandsFaultInAMeaning := by
  refine fun i s => ⟨fun hwf => ?legal, fun hwf => ?illegal⟩
  case legal =>
    obtain ⟨q, hq, hexec⟩ := startsBusy_of_wf hwf
    exact ⟨q, hq, hexec s⟩
  case illegal =>
    have hfault := exec_of_not_wf hwf s
    obtain ⟨hcause, hi⟩ | ⟨hcause, hi⟩ := operand_fault_cases hwf
    · exact .inl ⟨hcause ▸ hfault, hi⟩
    · exact .inr ⟨hcause ▸ hfault, hi⟩

/-- Settles O51: each activity of a step has its next state. -/
theorem everyStepAnswersANextState : Obligations.EveryStepAnswersANextState :=
  exists_step_eq_next

/-- Settles O52: a reset step is `State.atReset`, with the next draw of the latches and the host's inputs. -/
theorem resetStepGivesResetValues : Obligations.ResetStepGivesResetValues := by
  intro s later h
  refine ⟨s.free.resets, resetStep s, step_of_rstIn h, rfl, PerPin.get_all _, rfl, rfl, rfl, fun idx hidx => ?registers,
    rfl, rfl, ?inputs⟩
  case registers =>
    refine atReset_readReg _ _ _ ?_
    rintro rfl
    exact absurd hidx (by decide)
  case inputs =>
    have hinputs : (resetStep s).inputs = { s.inputs with rstIn := s.inputs.rstIn.tail } := rfl
    rw [hinputs, h]
    rfl

/-- Settles O53: a reset step leaves an idle block, and with nothing offered that is the end of a run. -/
theorem resetAbandonsARunningCommand : Obligations.ResetAbandonsARunningCommand := by
  intro s later _ h
  refine ⟨resetStep s, step_of_rstIn h, rfl, rfl, rfl, fun p => Pins.drive_inp (PerPin.get_all _ p),
    fun n u hnr hnone hrun => ?later⟩
  case later =>
    rw [run_of_ended ((ended_iff _).mpr ⟨rfl, hnone⟩) hnr] at hrun
    cases hrun
    exact ⟨rfl, rfl, rfl⟩

/-- Settles O56: an idle block with no word left takes only idle steps. -/
theorem endedRunStaysEnded : Obligations.EndedRunStaysEnded := by
  refine ⟨fun s => ?ended, fun n s h hnr => ⟨s.idled n, run_of_ended h hnr, rfl, ended_idled n h⟩⟩
  case ended => rw [ended_iff, readReg_status, statusWord_busy, Seq.busy_eq_bne_idle, bne_eq_false_iff_eq]

end Sys2Proof.Machine
end

section
/-! PROOFS. What the reference receiver makes of the block's lines: a frame seen by a rising-edge receiver, a frame on
undriven lines, the frames of INITDISP and of FILLRECT, and the wire rows of the opcode table. -/

namespace Sys2Proof.Machine

/-! ### Frame values as the tables write them (R320 to R322) -/

theorem frameWord_command (b : Byte) : frameWord false b = BitVec.ofNat 9 b.toNat := by
  revert b
  decide

theorem frameWord_data (b : Byte) : frameWord true b = BitVec.ofNat 9 (0x100 + b.toNat) := by
  revert b
  decide

/-! ### The op-code table (R452) -/

theorem decodeFrame_wireTable : ∀ e ∈ wireTable, decodeFrame (frameWord false e.1) = some e.2 := by
  decide

theorem asCommand_wireTable : ∀ e ∈ wireTable, e.2.asCommand = .txframe false e.1 := by
  decide

/-- A wire command row emits the frame of its op-code (R322). -/
theorem exec_wireTable {op : Byte} {i : Instr} (h : (op, i) ∈ wireTable) (s : State) :
    exec i s = .next (s.setSeq (Seq.ofList (frame false op))) := by
  rw [← exec_asCommand, asCommand_wireTable _ h]
  rfl

/-! ### A rising-edge receiver (R428, R714) -/

section RisingEdge
variable {s : Pins} (hsck : s.dir.get .sck = .out) (hcs : s.dir.get .cs = .out) (hsda : s.dir.get .sda = .out)
  (hactive : s.lat.get .cs = false)
include hsck hcs hactive

/-- A bit that finds the clock high shows no rising edge. -/
theorem watch_rising_bit_of_high (hhigh : s.lat.get .sck = true) (r : Receiver) (b : Bool) :
    r.watch .rising s (bitEvents b) = r := by
  simp [bitEvents, Receiver.watch, Receiver.observe, edgeShows, Pins.drive_after_wr_same, Pins.drive_after_wr_other,
    Pins.drive_out hcs, Pins.drive_out hsck, hsck, hactive, hhigh, rose]

include hsda

/-- A bit that finds the clock low is shifted in at its rising edge. -/
theorem watch_rising_bit_of_low (hlow : s.lat.get .sck = false) (r : Receiver) (b : Bool) :
    r.watch .rising s (bitEvents b) = { r with shift := r.shift.map fun sh => sh ++ [some b] } := by
  simp [bitEvents, Receiver.watch, Receiver.observe, edgeShows, Pins.drive_after_wr_same, Pins.drive_after_wr_other,
    Pins.drive_out hcs, Pins.drive_out hsck, hsck, hsda, hactive, hlow, rose]

theorem watch_rising_bits_of_low (hlow : s.lat.get .sck = false) (r : Receiver) (bits : List Bool) :
    r.watch .rising s (bitsEvents bits) = { r with shift := r.shift.map fun sh => sh ++ bits.map some } := by
  induction bits generalizing s r with
  | nil => simp [Receiver.watch]
  | cons b bits ih =>
    rw [bitsEvents_cons, Receiver.watch_append, watch_rising_bit_of_low hsck hcs hsda hactive hlow,
      ih (s := s.replay (bitEvents b)) hsck hcs hsda hactive rfl]
    simp [Function.comp_def]

/-- Of bits that find the clock high, the first is missed; it leaves the clock low for the others. -/
theorem watch_rising_bits_of_high (hhigh : s.lat.get .sck = true) (r : Receiver) (b : Bool) (bits : List Bool) :
    r.watch .rising s (bitsEvents (b :: bits)) = { r with shift := r.shift.map fun sh => sh ++ bits.map some } := by
  rw [bitsEvents_cons, Receiver.watch_append, watch_rising_bit_of_high hsck hcs hactive hhigh,
    watch_rising_bits_of_low (s := s.replay (bitEvents b)) hsck hcs hsda hactive rfl]

end RisingEdge

theorem deliveryOf_wrong_length {bits : List Bool} (h : bits.length ≠ Config.frameBits) :
    deliveryOf (some (bits.map some)) = [.broken bits.length] := by
  simp [deliveryOf, h]

/-- The chip-select writes of a frame on driven lines open and close the transaction. -/
theorem watch_frame_of_bits {s : Pins} (edge : Edge) (hsck : s.dir.get .sck = .out) (hcs : s.dir.get .cs = .out)
    (hidle : s.lat.get .cs = true) (r : Receiver) (f : Frame) {shift : List (Option Bool)}
    (hbits : Receiver.watch edge { r with shift := some [] } (s.after (.wr .cs false)) (bitsEvents (frameBits f)) =
      { r with shift := some shift }) :
    (r.watch edge s (eventsOf (frameOps f))).delivered = r.delivered ++ deliveryOf (some shift) := by
  let t := s.after (.wr .cs false)
  obtain ⟨hcsKept, hdirKept⟩ := replay_bitsEvents_keeps t (frameBits f)
  have hend := observe_deselect (s := t.replay (bitsEvents (frameBits f))) (hdirKept ▸ hsck) (hdirKept ▸ hcs) edge
    hcsKept { r with shift := some shift }
  rw [eventsOf_frameOps, Receiver.watch, observe_select hcs edge hidle, Receiver.watch_append, hbits]
  exact congrArg Receiver.delivered hend

/-! ### Frames on undriven lines (R429) -/

/-- Only a rising edge of chip-select while the clock is driven delivers anything. -/
theorem observe_delivered {edge : Edge} {before after : WireLevels} (r : Receiver)
    (h : rose before.cs after.cs = false ∨ after.sck = none) : (r.observe edge before after).delivered = r.delivered := by
  unfold Receiver.observe
  split_ifs with hfell hrose hdriven hedge
  · rfl
  · rcases h with h | h
    · exact absurd hrose (Bool.eq_false_iff.mp h)
    · simp [h] at hdriven
  · exact List.append_nil _
  · rfl
  · rfl

theorem rose_to_undriven (x : Option Bool) : rose x none = false := Bool.and_false _

theorem rose_to_low (x : Option Bool) : rose x (some false) = false := Bool.and_false _

/-- Latch writes deliver nothing while chip-select or the clock is an input. -/
theorem watch_writes_undriven {s : Pins} {es : List Event} (edge : Edge) (r : Receiver)
    (hwrites : ∀ e ∈ es, ∃ p v, e = .wr p v) (h : s.dir.get .cs = .inp ∨ s.dir.get .sck = .inp) :
    (r.watch edge s es).delivered = r.delivered := by
  induction es generalizing s r with
  | nil => rfl
  | cons e es ih =>
    obtain ⟨⟨p, v, rfl⟩, hrest⟩ := List.forall_mem_cons.mp hwrites
    refine (ih (s := s.after (.wr p v)) _ hrest h).trans (observe_delivered r ?_)
    rcases h with hcs | hsck
    · left
      rw [Pins.wire_cs, Pins.wire_cs, Pins.drive_inp (s := s.after (.wr p v)) hcs, rose_to_undriven]
    · exact .inr (Pins.drive_inp (s := s.after (.wr p v)) hsck)

theorem write_of_mem_frame {f : Frame} {e : Event} (h : e ∈ eventsOf (frameOps f)) : ∃ p v, e = .wr p v := by
  simp only [eventsOf_frameOps, bitsEvents, bitEvents, List.mem_cons, List.mem_append, List.mem_flatMap, List.not_mem_nil,
    or_false] at h
  rcases h with rfl | ⟨b, -, rfl | rfl | rfl⟩ | rfl <;> exact ⟨_, _, rfl⟩

section UndrivenData
variable {s : Pins} (hsck : s.dir.get .sck = .out) (hcs : s.dir.get .cs = .out) (hsda : s.dir.get .sda = .inp)
include hsck hcs hsda

/-- A bit sent on an undriven data line is shifted in as no level. -/
theorem watch_undriven_bit (hactive : s.lat.get .cs = false) (r : Receiver) (b : Bool) :
    r.watch .falling s (bitEvents b) = { r with shift := r.shift.map fun sh => sh ++ [none] } := by
  have hdata (v : Bool) : (s.after (.wr .sda v)).drive .sda = none := Pins.drive_inp (s := s.after (.wr .sda v)) hsda
  simp [bitEvents, Receiver.watch, Receiver.observe, edgeShows, Pins.drive_after_wr_same, Pins.drive_after_wr_other,
    Pins.drive_out hcs, hsck, hactive, hdata, fell_to_high, fell_high_low]

theorem watch_undriven_bits (hactive : s.lat.get .cs = false) (r : Receiver) (bits : List Bool) :
    r.watch .falling s (bitsEvents bits) =
      { r with shift := r.shift.map fun sh => sh ++ List.replicate bits.length none } := by
  induction bits generalizing s r with
  | nil => simp [Receiver.watch]
  | cons b bits ih =>
    rw [bitsEvents_cons, Receiver.watch_append, watch_undriven_bit hsck hcs hsda hactive,
      ih (s := s.replay (bitEvents b)) hsck hcs hsda hactive]
    simp [Function.comp_def, List.replicate_succ]

end UndrivenData

/-- A transaction in which a bit was undriven delivers nothing (R429), whether or not its start was seen. -/
theorem deliveryOf_undriven_bit (shift : Option (List (Option Bool))) (n : Nat) :
    deliveryOf (shift.map fun sh => sh ++ List.replicate (n + 1) none) = [] := by
  cases shift with
  | none => rfl
  | some sh => simp [deliveryOf, List.replicate_succ]

theorem watch_frame_undriven_data {s : Pins} (hsck : s.dir.get .sck = .out) (hcs : s.dir.get .cs = .out)
    (hsda : s.dir.get .sda = .inp) (r : Receiver) (f : Frame) :
    (r.watch .falling s (eventsOf (frameOps f))).delivered = r.delivered := by
  let t := s.after (.wr .cs false)
  let r₁ := r.observe .falling s.wire t.wire
  have hopen : r₁.delivered = r.delivered := by
    refine observe_delivered r (.inl ?_)
    rw [Pins.wire_cs, Pins.wire_cs, Pins.drive_after_wr_same false hcs, rose_to_low]
  obtain ⟨hcsKept, hdirKept⟩ := replay_bitsEvents_keeps t (frameBits f)
  have hend := observe_deselect (s := t.replay (bitsEvents (frameBits f))) (hdirKept ▸ hsck) (hdirKept ▸ hcs) .falling
    hcsKept { r₁ with shift := r₁.shift.map fun sh => sh ++ List.replicate 9 none }
  rw [deliveryOf_undriven_bit r₁.shift 8, List.append_nil] at hend
  rw [eventsOf_frameOps, Receiver.watch, Receiver.watch_append, watch_undriven_bits (s := t) hsck hcs hsda rfl,
    frameBits_length]
  exact (congrArg Receiver.delivered hend).trans hopen

/-- R429: with chip-select, clock or data an input, a frame delivers nothing. -/
theorem delivered_frame_undriven {s : Pins} (f : Frame)
    (h : s.dir.get .cs = .inp ∨ s.dir.get .sck = .inp ∨ s.dir.get .sda = .inp) :
    delivered s (eventsOf (frameOps f)) = [] := by
  cases hcs : s.dir.get .cs with
  | inp => exact watch_writes_undriven _ _ (fun _ => write_of_mem_frame) (.inl hcs)
  | out =>
    cases hsck : s.dir.get .sck with
    | inp => exact watch_writes_undriven _ _ (fun _ => write_of_mem_frame) (.inr hsck)
    | out =>
      have hsda : s.dir.get .sda = .inp := by simpa [hcs, hsck] using h
      exact watch_frame_undriven_data hsck hcs hsda Receiver.fresh f

/-! ### A list of frames (R430, R450) -/

/-- Frames on driven lines are delivered one after the other; each leaves chip-select idle for the next. -/
theorem watch_framesOps {s : Pins} (hsck : s.dir.get .sck = .out) (hsda : s.dir.get .sda = .out)
    (hcs : s.dir.get .cs = .out) (hidle : s.lat.get .cs = true) (r : Receiver) (fs : List Frame) :
    (r.watch .falling s (eventsOf (framesOps fs))).delivered = r.delivered ++ fs.map .frame := by
  induction fs generalizing s r with
  | nil => exact (List.append_nil _).symm
  | cons f fs ih =>
    rw [framesOps_cons, eventsOf_append, Receiver.watch_append, watch_frame hsck hcs hsda hidle,
      ih (s := s.replay (eventsOf (frameOps f))) hsck hsda hcs rfl, List.append_assoc]
    rfl

theorem delivered_framesOps {s : Pins} (hsck : s.dir.get .sck = .out) (hsda : s.dir.get .sda = .out)
    (hcs : s.dir.get .cs = .out) (hidle : s.lat.get .cs = true) (fs : List Frame) :
    delivered s (eventsOf (framesOps fs)) = fs.map .frame :=
  watch_framesOps hsck hsda hcs hidle Receiver.fresh fs

/-! ### INITDISP at the receiver and on the lines (R454, R711) -/

theorem fell_from_undriven (x : Option Bool) : fell none x = false := rfl

theorem fell_to_undriven (x : Option Bool) : fell x none = false := Bool.and_false _

/-- Only `WR(CS, 0)` can make the chip-select line fall: a change of direction leaves or starts an undriven line. -/
theorem cs_falls_only_by_wr {s : Pins} {e : Event} (h : e ≠ .wr .cs false) :
    fell (s.drive .cs) ((s.after e).drive .cs) = false := by
  cases e with
  | delay n => exact fell_self _
  | wr p v =>
    cases p with
    | cs =>
      obtain rfl : v = true := Bool.eq_true_of_not_eq_false fun hv => h (hv ▸ rfl)
      cases hdir : s.dir.get .cs with
      | out => rw [Pins.drive_after_wr_same true hdir, fell_to_high]
      | inp => rw [Pins.drive_inp hdir, fell_from_undriven]
    | _ => exact fell_self _
  | dir p m =>
    cases p with
    | cs =>
      have hafter : (s.after (.dir .cs m)).drive .cs = if m = .out then some (s.lat.get .cs) else none :=
        s.drive_set_dir .cs m
      rw [hafter]
      cases m with
      | inp => exact fell_to_undriven _
      | out =>
        cases hdir : s.dir.get .cs with
        | out => rw [Pins.drive_out hdir, if_pos rfl, fell_self]
        | inp => rw [Pins.drive_inp hdir, fell_from_undriven]
    | _ => exact fell_self _

/-- Before chip-select has fallen, the receiver has no bits and delivers nothing. -/
theorem observe_fresh {edge : Edge} {before after : WireLevels} (h : fell before.cs after.cs = false) :
    Receiver.fresh.observe edge before after = Receiver.fresh := by
  simp [Receiver.observe, h, Receiver.fresh, deliveryOf]

theorem watch_fresh {es : List Event} (edge : Edge) (s : Pins) (h : .wr .cs false ∉ es) :
    Receiver.fresh.watch edge s es = Receiver.fresh := by
  induction es generalizing s with
  | nil => rfl
  | cons e es ih =>
    obtain ⟨he, hes⟩ := not_or.mp (mt List.mem_cons.mpr h)
    rw [Receiver.watch, observe_fresh (cs_falls_only_by_wr (Ne.symm he)), ih _ hes]

theorem cs_low_not_mem_initPreamble (settle : Nat) : .wr .cs false ∉ eventsOf (initPreamble settle) := by
  simp [eventsOf, initPreamble, MicroOp.event]

/-- R454: from any pins, nothing is delivered before the frames, which find all lines driven and chip-select idle. -/
theorem delivered_initdisp (s : Pins) (settle : Nat) (payload : Byte → List Byte) :
    delivered s (eventsOf (expandInitdisp settle payload)) = (initFrames payload).map .frame := by
  rw [delivered, expandInitdisp, eventsOf_append, Receiver.watch_append,
    watch_fresh _ s (cs_low_not_mem_initPreamble settle), replay_initPreamble]
  exact delivered_framesOps rfl rfl rfl rfl (initFrames payload)

/-- The first events of INITDISP are those of its preamble. -/
theorem take_initdisp_events {n : Nat} (hn : n ≤ 14) (settle : Nat) (payload : Byte → List Byte) :
    (eventsOf (expandInitdisp settle payload)).take n = (eventsOf (initPreamble settle)).take n := by
  rw [expandInitdisp, eventsOf_append]
  exact List.take_append_of_le_length hn

/-! ### The obligations -/

/-- Settles O31: the first bit's rising edge does not show, the other eight are shifted in. -/
theorem risingEdgeReceiverBreaksAFrameStartedHigh : Obligations.RisingEdgeReceiverBreaksAFrameStartedHigh := by
  intro s dc b hsck hsda hcs hidle hhigh
  obtain ⟨bit, bits, hf, hlen⟩ : ∃ bit bits, frameBits (frameWord dc b) = bit :: bits ∧ bits.length = 8 :=
    ⟨_, _, rfl, rfl⟩
  have hbits := watch_rising_bits_of_high (s := s.after (.wr .cs false)) hsck hcs hsda rfl hhigh
    { Receiver.fresh with shift := some [] } bit bits
  have hframe := watch_frame_of_bits (shift := bits.map some) .rising hsck hcs hidle Receiver.fresh _ (hf ▸ hbits)
  rw [deliveryOf_wrong_length (by rw [hlen]; decide), hlen] at hframe
  exact hframe

/-- Settles O32: the frame runs to its end, and no transaction with a driven bit in it ends. -/
theorem undrivenFrameDeliversNothing : Obligations.UndrivenFrameDeliversNothing :=
  fun _ dc b hnr h => ⟨_, rfl, run_frame hnr (frameWord dc b), delivered_frame_undriven (frameWord dc b) h⟩

/-- Settles O33: each row of the op-code table is the frame of its op-code and starts it. -/
theorem wireCommandRowsEmitTheirOpcode : Obligations.WireCommandRowsEmitTheirOpcode := by
  intro s e he
  have hswap : e ∈ wireTable.map Prod.swap := he
  obtain ⟨⟨op, i⟩, hrow, rfl⟩ := List.mem_map.mp hswap
  simp only [Prod.swap, ← frameWord_command]
  exact ⟨exec_wireTable hrow s, decodeFrame_wireTable (op, i) hrow, encode_wireTable (op, i) hrow,
    fun hnr => run_frame hnr _⟩

/-- Settles O34: a data frame is its row's, and the row's meaning starts it. -/
theorem wireDataRowEmitsItsByte : Obligations.WireDataRowEmitsItsByte := by
  intro s b
  rw [← frameWord_data]
  exact ⟨rfl, decodeFrame_data b, rfl, fun hnr => run_frame hnr _⟩

/-- Settles O37: the receiver is delivered the frames of the table, each its op-code's or a byte of its payload. -/
theorem initdispDeliversTheOpcodeTable : Obligations.InitdispDeliversTheOpcodeTable := by
  intro s settle payload
  rw [delivered_initdisp]
  simp only [initFrames, initTable, commandFrames, List.flatMap_map, List.map_flatMap, List.map_cons, List.map_map,
    Function.comp_def, frameWord_command, frameWord_data]
  rfl

/-- Settles O38: the preamble's first event that writes a line's latch is the one named. -/
theorem initdispDrivesOldLatchesAtFirst : Obligations.InitdispDrivesOldLatchesAtFirst := by
  refine fun s settle payload n => ⟨fun h₃ h₇ => ?cs, fun h₄ h₈ => ?rst⟩
  case cs =>
    rw [take_initdisp_events (by omega)]
    interval_cases n <;> rfl
  case rst =>
    rw [take_initdisp_events (by omega)]
    interval_cases n <;> rfl

/-- Settles O40: the receiver is delivered the frames of the rectangle, whose windows are sums modulo 256. -/
theorem fillrectDeliversTheStream : Obligations.FillrectDeliversTheStream := by
  intro s x y w h color hsck hsda hcs hidle
  rw [expandFillrect, delivered_framesOps hsck hsda hcs hidle, fillFrames_eq]
  simp only [List.map_append, List.map_cons, List.map_nil, List.map_flatten, List.map_replicate, List.map_map,
    Function.comp_def, frameWord_command, frameWord_data, BitVec.toNat_ofNat]
  rfl

end Sys2Proof.Machine
end
